-- ==== Sys2Proof/Word.lean ====
section
/-! DEFINITION. The words of the block: bytes, byte sequences, the 6-bit request word and its 3-bit
command code (spec 00_scope.md R10, R11; 30_encoding.md R81, R83). -/

namespace Sys2Proof

/-- A byte, an unsigned integer in 0..255; bit 0 is the least significant bit (R10). -/
abbrev Byte := BitVec 8

/-- A byte sequence; index 0 is the first byte received or sent (R11). -/
abbrev Bytes := List Byte

/-- A 16-bit word of a response, before any sign is given to it (R51, R90). -/
abbrev Word16 := BitVec 16

/-- A 32-bit composite of two 16-bit words (R52, R92). -/
abbrev Word32 := BitVec 32

/-- The 6-bit request word `opw[5:0]` (R83). -/
abbrev OpWord := BitVec 6

/-- The 3-bit command code `opw[2:0]` (R81). -/
abbrev CmdCode := BitVec 3

end Sys2Proof
end

