-- ==== Sys2Proof/Config.lean ====
section
/-! DEFINITION. The parameter record `CFG` (spec 00_scope.md R8; 92_eei_decisions.md section 2): every
constant of the device that the spec names and leaves OPEN, as plain data, and the constants of a layout that
the spec gives. The device's own record stands in WellFormed.lean, beside the constraints it meets. -/

namespace Sys2Proof

/-- A scale factor of a numeric field: one of 1, 10, 100, 1000 (R8, R97). -/
inductive Scale where
  | one | ten | hundred | thousand
deriving DecidableEq, Repr, Inhabited

/-- `N_CELLS`, the number of cell-voltage words (R8). -/
def nCells : Nat := 20

/-- `SCALE_CURRENT`, the divisor of the raw current (R8, R203). -/
def scaleCurrent : Scale := .hundred

/-- `SCALE_VOLTAGE`, the divisor of a raw cell voltage (R8, R203). -/
def scaleVoltage : Scale := .thousand

/-- The names of record fields. The first block is R201's, in R201's order; `counter k` is any counter
that the spec leaves unnamed (R201's further `U16` descriptors, R208's cycle counters); `date` is the
date of R208; the last three are R211's. Names are labels only (log entry 9). -/
inductive FieldName where
  | tempCell | tempShunt | current
  | voltages (i : Nat)
  | avgCellVoltage | socPercent | socScaled
  | alarms | warnings | status
  | dateRtc | hourRtc | time2 | time3
  | chargeCycles | maxCurrent
  | alarms2
  | counter (k : Nat)
  | date
  | installDate | serial | tag
deriving DecidableEq, Repr, Inhabited

/-- A layout descriptor (R97): one entry of a layout, with its field name, its kind, its byte offset or
offsets into the payload, and for a number its scale. -/
inductive Desc where
  | u16 (name : FieldName) (off : Nat) (scale : Scale)
  | s16 (name : FieldName) (off : Nat) (scale : Scale)
  | u32 (name : FieldName) (offMsw offLsw : Nat) (scale : Scale)
  | s32 (name : FieldName) (offMsw offLsw : Nat) (scale : Scale)
  | flags16 (name : FieldName) (off : Nat)
  | date (name : FieldName) (off : Nat)
  | time (name : FieldName) (off : Nat)
  | ascii (name : FieldName) (off n : Nat)
deriving DecidableEq, Repr, Inhabited

/-- The four flag banks of DATA_MEASUREMENTS (R204). -/
inductive FlagBank where
  | alarms | warnings | status | alarms2
deriving DecidableEq, Repr, Inhabited

/-- One named bit of `FLAG_NAME[bank][bit]` (R205); a bit that no entry names is unnamed. -/
structure FlagLabel where
  bank : FlagBank
  bit  : Fin 16
  name : String
deriving DecidableEq, Repr, Inhabited

/-- `TEMPLATE[c]` for the five CommandTypes (R8, R141): any byte sequences, the empty one included (R149). -/
structure Templates where
  dataMeasurements : Bytes
  usageSummary     : Bytes
  productionData   : Bytes
  mosfetOn         : Bytes
  mosfetOff        : Bytes
deriving DecidableEq, Repr, Inhabited

/-- The parameter record `CFG` (R8): the OPEN parameters of 92_eei_decisions.md section 2. -/
structure Cfg where
  /-- `TEMPLATE[c]`. -/
  templates   : Templates
  /-- `ECHO_ON`. -/
  echoOn      : Bytes
  /-- `ECHO_OFF`. -/
  echoOff     : Bytes
  /-- `LAYOUT[DATA_MEASUREMENTS]`. -/
  layoutDm    : List Desc
  /-- `LAYOUT[USAGE_SUMMARY]`. -/
  layoutUs    : List Desc
  /-- `LAYOUT[PRODUCTION_DATA]`. -/
  layoutPd    : List Desc
  /-- `FLAG_NAME`. -/
  flagNames   : List FlagLabel
  /-- `MOSFET_ON_BIT`. -/
  mosfetOnBit : Fin 16
  /-- `SCALE_TEMP`. -/
  scaleTemp   : Scale
  /-- `SCALE_AVGV`. -/
  scaleAvgV   : Scale
  /-- `SCALE_SOCPCT`. -/
  scaleSocPct : Scale
  /-- `SCALE_SOC32`. -/
  scaleSoc32  : Scale
  /-- `SCALE_MAXCUR`. -/
  scaleMaxCur : Scale
  /-- `CHUNK_MAX`. -/
  chunkMax    : Nat
deriving DecidableEq, Repr, Inhabited

end Sys2Proof
end

