-- ==== Sys2Proof/Syntax.lean ====
section
/-! DEFINITION. The operations of the block (spec 30_encoding.md R80 and opcode_table.json: one constructor
per row) and the request that presents one at the input interface (10_state.md R32). -/

namespace Sys2Proof

/-- CommandType, the closed enumeration (R81). -/
inductive CommandType where
  | dataMeasurements | usageSummary | productionData | mosfetOn | mosfetOff
deriving DecidableEq, Repr

/-- What an agent presents at the input interface: the request word, and beside it the byte-sequence
and the optional time argument (R32, R83). An operation that takes no such argument ignores it. -/
structure Request where
  /-- `opw[5:0]`. -/
  opw   : OpWord
  /-- `bytes` of `CRC8`, `rawBytes` of `PARSE`, `chunk` of `NTF`. -/
  bytes : Bytes
  /-- `t` of `NTF`. -/
  time  : Option Nat
deriving DecidableEq, Repr

/-- The operations: the 22 rows of opcode_table.json, in the table's order. -/
inductive Instr where
  /-- `CRC8 bytes` (R124). -/
  | crc8 (bytes : Bytes)
  /-- `ENC.DATA_MEASUREMENTS` (R142). -/
  | encDataMeasurements
  /-- `ENC.USAGE_SUMMARY` (R143). -/
  | encUsageSummary
  /-- `ENC.PRODUCTION_DATA` (R144). -/
  | encProductionData
  /-- `ENC.MOSFET_ON` (R145). -/
  | encMosfetOn
  /-- `ENC.MOSFET_OFF` (R146). -/
  | encMosfetOff
  /-- `ENC` with code 5 (R147). -/
  | encInvalid5
  /-- `ENC` with code 6 (R147). -/
  | encInvalid6
  /-- `ENC` with code 7 (R147). -/
  | encInvalid7
  /-- `PARSE.DATA_MEASUREMENTS rawBytes` (R200). -/
  | parseDataMeasurements (raw : Bytes)
  /-- `PARSE.USAGE_SUMMARY rawBytes` (R207). -/
  | parseUsageSummary (raw : Bytes)
  /-- `PARSE.PRODUCTION_DATA rawBytes` (R209). -/
  | parseProductionData (raw : Bytes)
  /-- `PARSE.MOSFET_ON rawBytes` (R214). -/
  | parseMosfetOn (raw : Bytes)
  /-- `PARSE.MOSFET_OFF rawBytes` (R214). -/
  | parseMosfetOff (raw : Bytes)
  /-- `PARSE` with code 5 (R214). -/
  | parseInvalid5 (raw : Bytes)
  /-- `PARSE` with code 6 (R214). -/
  | parseInvalid6 (raw : Bytes)
  /-- `PARSE` with code 7 (R214). -/
  | parseInvalid7 (raw : Bytes)
  /-- `ARM` (R231). -/
  | arm
  /-- `NTF chunk [t]` (R233). -/
  | ntf (chunk : Bytes) (t : Option Nat)
  /-- `TMO` (R245). -/
  | tmo
  /-- `RESET` (R310). -/
  | reset
  /-- The reserved request word `111xxx` (R84, X1). -/
  | reserved
deriving DecidableEq, Repr

end Sys2Proof
end

