-- ==== Sys2Proof/WellFormed.lean ====
section
/-! DEFINITION. Well-formedness: of a configuration record `CFG` (spec 92_eei_decisions.md section 2,
93_implementation_defined.md X3, X4) and of an operation with its arguments against the environment's
contract (X1, X11), each check a Bool; and the device's own `CFG`, well-formed and otherwise uninterpreted. -/

namespace Sys2Proof

/-- The kinds of descriptors (R97). -/
inductive Kind where
  | u16 | s16 | u32 | s32 | flags16 | date | time | ascii
deriving DecidableEq, Repr

/-- The field name a descriptor gives (R97). -/
def Desc.name : Desc → FieldName
  | .u16 n _ _ | .s16 n _ _ | .u32 n _ _ _ | .s32 n _ _ _ => n
  | .flags16 n _ | .date n _ | .time n _ | .ascii n _ _ => n

/-- The kind of a descriptor (R97). -/
def Desc.kind : Desc → Kind
  | .u16 _ _ _ => .u16
  | .s16 _ _ _ => .s16
  | .u32 _ _ _ _ => .u32
  | .s32 _ _ _ _ => .s32
  | .flags16 _ _ => .flags16
  | .date _ _ => .date
  | .time _ _ => .time
  | .ascii _ _ _ => .ascii

/-- The scale a numeric descriptor carries (R97, R203). -/
def Desc.scale : Desc → Option Scale
  | .u16 _ _ s | .s16 _ _ s | .u32 _ _ _ s | .s32 _ _ _ s => some s
  | .flags16 _ _ | .date _ _ | .time _ _ | .ascii _ _ _ => none

/-- The byte offsets a descriptor names (R97). -/
def Desc.offsets : Desc → List Nat
  | .u16 _ o _ | .s16 _ o _ | .flags16 _ o | .date _ o | .time _ o | .ascii _ o _ => [o]
  | .u32 _ m l _ | .s32 _ m l _ => [m, l]

/-- The two words of a 32-bit descriptor are consecutive: the offsets differ by exactly 2 (R52). -/
def Desc.wordsConsecutive : Desc → Bool
  | .u32 _ m l _ | .s32 _ m l _ => l == m + 2 || m == l + 2
  | _ => true

/-- What R201 fixes of a field: its name, its kind and its scale. -/
abbrev FieldSpec := FieldName × Kind × Option Scale

/-- What a descriptor says of its field. -/
def Desc.spec (d : Desc) : FieldSpec := (d.name, d.kind, d.scale)

/-- The fields of DataMeasurements in extraction order: the table of R201. -/
def dmFields (c : Cfg) : List FieldSpec :=
  [(.tempCell, .s16, some c.scaleTemp), (.tempShunt, .s16, some c.scaleTemp),
   (.current, .s32, some scaleCurrent)] ++
  (List.range nCells).map (fun i => (.voltages i, .u16, some scaleVoltage)) ++
  [(.avgCellVoltage, .u16, some c.scaleAvgV), (.socPercent, .u16, some c.scaleSocPct),
   (.socScaled, .u32, some c.scaleSoc32),
   (.alarms, .flags16, none), (.warnings, .flags16, none), (.status, .flags16, none),
   (.dateRtc, .date, none), (.hourRtc, .time, none), (.time2, .time, none), (.time3, .time, none),
   (.chargeCycles, .u16, some .one), (.maxCurrent, .u16, some c.scaleMaxCur),
   (.alarms2, .flags16, none)]

/-- A further `U16` counter that a layout may add to R201's fields (R201, D16). -/
def Desc.isExtraCounter : Desc → Bool
  | .u16 (.counter _) _ _ => true
  | _ => false

/-- No field name is repeated (X4). -/
def namesDistinct (l : List Desc) : Bool := decide (l.map Desc.name).Nodup

/-- `LAYOUT[DATA_MEASUREMENTS]` has the field set, kinds, scales and order of R201, further counters
apart; the fourth flag bank may be left out (C1). -/
def dmFieldsOk (c : Cfg) : Bool :=
  let fs := (c.layoutDm.filter (fun d => !d.isExtraCounter)).map Desc.spec
  fs == dmFields c || fs == (dmFields c).dropLast

/-- Every offset of `LAYOUT[DATA_MEASUREMENTS]` is at least 1: offset 0 is the length byte. -/
def dmOffsetsOk (c : Cfg) : Bool := c.layoutDm.all fun d => d.offsets.all (1 ≤ ·)

/-- A cycle counter of UsageSummary: a `U16` of scale 1 (R208). -/
def Desc.isCycleCounter : Desc → Bool
  | .u16 (.counter _) _ .one => true
  | _ => false

/-- `LAYOUT[USAGE_SUMMARY]`: one or more counters, then one `DATE` (R208). -/
def usFieldsOk : List Desc → Bool
  | [] => false
  | [_] => false
  | [d, .date .date _] => d.isCycleCounter
  | d :: ds => d.isCycleCounter && usFieldsOk ds

/-- `LAYOUT[PRODUCTION_DATA]`: one `DATE`, then two `ASCII` (R211). -/
def pdFieldsOk : List Desc → Bool
  | [.date .installDate _, .ascii .serial _ _, .ascii .tag _ _] => true
  | _ => false

/-- An echo constant has length at least 1: an empty one would be shadowed by the empty-chunk rule. -/
def echoesNonEmpty (c : Cfg) : Bool := !c.echoOn.isEmpty && !c.echoOff.isEmpty

/-- `CHUNK_MAX` is at least 1. -/
def chunkMaxPositive (c : Cfg) : Bool := decide (1 ≤ c.chunkMax)

/-- Consecutive words in every 32-bit descriptor of every layout (R52). -/
def compositesOk (c : Cfg) : Bool :=
  (c.layoutDm ++ c.layoutUs ++ c.layoutPd).all Desc.wordsConsecutive

/-- No layout repeats a field name (X4). -/
def layoutNamesOk (c : Cfg) : Bool :=
  namesDistinct c.layoutDm && namesDistinct c.layoutUs && namesDistinct c.layoutPd

/-- A well-formed `CFG` (92_eei_decisions.md section 2, X3, X4). `TEMPLATE`, `FLAG_NAME` and the scales are
under no constraint of their own, `MOSFET_ON_BIT` is in 0..15 by its type. -/
def Cfg.wf (c : Cfg) : Bool :=
  echoesNonEmpty c && chunkMaxPositive c && compositesOk c && layoutNamesOk c &&
  dmFieldsOk c && dmOffsetsOk c && usFieldsOk c.layoutUs && pdFieldsOk c.layoutPd

/-- The records that are well-formed: X3 gives a model no other. -/
abbrev WfCfg := { c : Cfg // c.wf = true }

/-- A record that shows only that well-formed records exist, as Lean asks before it takes an uninterpreted
constant of the type; nothing is computed from it. -/
def Cfg.sample : Cfg where
  templates   := ⟨[], [], [], [], []⟩
  echoOn      := [0]
  echoOff     := [0]
  layoutDm    :=
    [.s16 .tempCell 1 .one, .s16 .tempShunt 1 .one, .s32 .current 1 3 scaleCurrent] ++
    (List.range nCells).map (fun i => .u16 (.voltages i) 1 scaleVoltage) ++
    [.u16 .avgCellVoltage 1 .one, .u16 .socPercent 1 .one, .u32 .socScaled 1 3 .one,
     .flags16 .alarms 1, .flags16 .warnings 1, .flags16 .status 1,
     .date .dateRtc 1, .time .hourRtc 1, .time .time2 1, .time .time3 1,
     .u16 .chargeCycles 1 .one, .u16 .maxCurrent 1 .one]
  layoutUs    := [.u16 (.counter 0) 1 .one, .date .date 1]
  layoutPd    := [.date .installDate 1, .ascii .serial 1 0, .ascii .tag 1 0]
  flagNames   := []
  mosfetOnBit := 0
  scaleTemp   := .one
  scaleAvgV   := .one
  scaleSocPct := .one
  scaleSoc32  := .one
  scaleMaxCur := .one
  chunkMax    := 1

/-- The device's own `CFG`: D0 calls it fixed and prints none of it, so it has no body here, and all that a
proof can know of it is that it is well-formed, with the constants that the spec gives (R8, X3; log entry 3). -/
opaque Config.device [Inhabited WfCfg] : WfCfg

/-- The device's own `CFG`, as a record. -/
def Config.deviceCfg : Cfg := (@Config.device ⟨⟨Cfg.sample, by decide⟩⟩).val

/-- The device's own `CFG` is well-formed: no machine runs with another (X3). -/
theorem Config.deviceCfg_wf : Config.deviceCfg.wf = true :=
  (@Config.device ⟨⟨Cfg.sample, by decide⟩⟩).property

/-- A well-formed operation under a configuration: not the reserved request word (X1), and a chunk no
longer than `CHUNK_MAX` (X11). Every other argument may be any byte sequence or time value (R291, X6). -/
def Instr.wf (c : Cfg) : Instr → Bool
  | .reserved => false
  | .ntf chunk _ => decide (chunk.length ≤ c.chunkMax)
  | .crc8 _ | .encDataMeasurements | .encUsageSummary | .encProductionData | .encMosfetOn
  | .encMosfetOff | .encInvalid5 | .encInvalid6 | .encInvalid7 | .parseDataMeasurements _
  | .parseUsageSummary _ | .parseProductionData _ | .parseMosfetOn _ | .parseMosfetOff _
  | .parseInvalid5 _ | .parseInvalid6 _ | .parseInvalid7 _ | .arm | .tmo | .reset => true

end Sys2Proof
end

