-- ==== Sys2Proof/Decode.lean ====
section
/-! DEFINITION. Decoding of a request (spec 30_encoding.md R80, R81, R83, R84), total over the 64 request
words; the table of rows it is read from; the encoder; and the numbering the host reads. -/

namespace Sys2Proof

/-- `opw[5:3]`, the operation code (R83). -/
def opCode (w : OpWord) : BitVec 3 := w.extractLsb' 3 3

/-- `opw[2:0]`, the command code (R83). -/
def cmdCode (w : OpWord) : CmdCode := w.extractLsb' 0 3

/-- The request word of an operation code and a command code (R83). -/
def mkOpWord (op cmd : BitVec 3) : OpWord := op ++ cmd

/-- The CommandType of a command code; codes 5, 6 and 7 name none (R81). -/
def CommandType.ofCode (c : CmdCode) : Option CommandType :=
  match c.toNat with
  | 0 => some .dataMeasurements
  | 1 => some .usageSummary
  | 2 => some .productionData
  | 3 => some .mosfetOn
  | 4 => some .mosfetOff
  | _ => none

/-- `CMD_CODE` of a CommandType (R81). -/
def CommandType.code : CommandType → CmdCode
  | .dataMeasurements => 0
  | .usageSummary => 1
  | .productionData => 2
  | .mosfetOn => 3
  | .mosfetOff => 4

/-- `ENC` by its command code (R83, R147). -/
def decodeEnc (cmd : CmdCode) : Instr :=
  match CommandType.ofCode cmd with
  | some .dataMeasurements => .encDataMeasurements
  | some .usageSummary => .encUsageSummary
  | some .productionData => .encProductionData
  | some .mosfetOn => .encMosfetOn
  | some .mosfetOff => .encMosfetOff
  | none =>
    match cmd.toNat with
    | 5 => .encInvalid5
    | 6 => .encInvalid6
    | _ => .encInvalid7

/-- `PARSE` by its command code (R83, R214). -/
def decodeParse (cmd : CmdCode) (raw : Bytes) : Instr :=
  match CommandType.ofCode cmd with
  | some .dataMeasurements => .parseDataMeasurements raw
  | some .usageSummary => .parseUsageSummary raw
  | some .productionData => .parseProductionData raw
  | some .mosfetOn => .parseMosfetOn raw
  | some .mosfetOff => .parseMosfetOff raw
  | none =>
    match cmd.toNat with
    | 5 => .parseInvalid5 raw
    | 6 => .parseInvalid6 raw
    | _ => .parseInvalid7 raw

/-- The operation a request presents (R83). For `CRC8`, `ARM`, `NTF`, `TMO` and `RESET` the low three
bits are ignored (X5); `111xxx` is the reserved word (X1). -/
def decode (r : Request) : Instr :=
  match (opCode r.opw).toNat with
  | 0 => .crc8 r.bytes
  | 1 => decodeEnc (cmdCode r.opw)
  | 2 => decodeParse (cmdCode r.opw) r.bytes
  | 3 => .arm
  | 4 => .ntf r.bytes r.time
  | 5 => .tmo
  | 6 => .reset
  | _ => .reserved

/-- The request word of an operation, the ignored bits as 0 (R83's list of full request words). -/
def encodeWord : Instr → OpWord
  | .crc8 _ => 0b000000
  | .encDataMeasurements => 0b001000
  | .encUsageSummary => 0b001001
  | .encProductionData => 0b001010
  | .encMosfetOn => 0b001011
  | .encMosfetOff => 0b001100
  | .encInvalid5 => 0b001101
  | .encInvalid6 => 0b001110
  | .encInvalid7 => 0b001111
  | .parseDataMeasurements _ => 0b010000
  | .parseUsageSummary _ => 0b010001
  | .parseProductionData _ => 0b010010
  | .parseMosfetOn _ => 0b010011
  | .parseMosfetOff _ => 0b010100
  | .parseInvalid5 _ => 0b010101
  | .parseInvalid6 _ => 0b010110
  | .parseInvalid7 _ => 0b010111
  | .arm => 0b011000
  | .ntf _ _ => 0b100000
  | .tmo => 0b101000
  | .reset => 0b110000
  | .reserved => 0b111000

/-- The byte-sequence argument of an operation, empty where it has none (R80). -/
def bytesArg : Instr → Bytes
  | .crc8 b | .parseDataMeasurements b | .parseUsageSummary b | .parseProductionData b
  | .parseMosfetOn b | .parseMosfetOff b | .parseInvalid5 b | .parseInvalid6 b | .parseInvalid7 b
  | .ntf b _ => b
  | .encDataMeasurements | .encUsageSummary | .encProductionData | .encMosfetOn | .encMosfetOff
  | .encInvalid5 | .encInvalid6 | .encInvalid7 | .arm | .tmo | .reset | .reserved => []

/-- The time argument of an operation, absent where it has none (R80). -/
def timeArg : Instr → Option Nat
  | .ntf _ t => t
  | .crc8 _ | .parseDataMeasurements _ | .parseUsageSummary _ | .parseProductionData _
  | .parseMosfetOn _ | .parseMosfetOff _ | .parseInvalid5 _ | .parseInvalid6 _ | .parseInvalid7 _
  | .encDataMeasurements | .encUsageSummary | .encProductionData | .encMosfetOn | .encMosfetOff
  | .encInvalid5 | .encInvalid6 | .encInvalid7 | .arm | .tmo | .reset | .reserved => none

/-- The request that presents an operation. -/
def encode (i : Instr) : Request := ⟨encodeWord i, bytesArg i, timeArg i⟩

/-- A row of opcode_table.json: a request word belongs to it when its masked bits equal `bits`. -/
structure OpRow where
  mask : OpWord
  bits : OpWord
deriving DecidableEq, Repr

/-- A request word belongs to a row. -/
def OpRow.matches (r : OpRow) (w : OpWord) : Bool := (w &&& r.mask) == r.bits

/-- The `OP` format: bits 5:3 select the operation, bits 2:0 are ignored (R80). -/
def opRow (bits : OpWord) : OpRow := ⟨0x38, bits⟩

/-- The `OP_CMD` format: all six bits are fixed (R80). -/
def cmdRow (bits : OpWord) : OpRow := ⟨0x3F, bits⟩

/-- The 22 rows of opcode_table.json, in its order, as it prints mask and match. -/
def opTable : List OpRow :=
  [opRow 0x00,
   cmdRow 0x08, cmdRow 0x09, cmdRow 0x0A, cmdRow 0x0B, cmdRow 0x0C,
   cmdRow 0x0D, cmdRow 0x0E, cmdRow 0x0F] ++
  [cmdRow 0x10, cmdRow 0x11, cmdRow 0x12, cmdRow 0x13, cmdRow 0x14,
   cmdRow 0x15, cmdRow 0x16, cmdRow 0x17] ++
  [opRow 0x18, opRow 0x20, opRow 0x28, opRow 0x30, opRow 0x38]

/-- The index in `opTable` of an operation's row. -/
def rowIndex : Instr → Nat
  | .crc8 _ => 0
  | .encDataMeasurements => 1
  | .encUsageSummary => 2
  | .encProductionData => 3
  | .encMosfetOn => 4
  | .encMosfetOff => 5
  | .encInvalid5 => 6
  | .encInvalid6 => 7
  | .encInvalid7 => 8
  | .parseDataMeasurements _ => 9
  | .parseUsageSummary _ => 10
  | .parseProductionData _ => 11
  | .parseMosfetOn _ => 12
  | .parseMosfetOff _ => 13
  | .parseInvalid5 _ => 14
  | .parseInvalid6 _ => 15
  | .parseInvalid7 _ => 16
  | .arm => 17
  | .ntf _ _ => 18
  | .tmo => 19
  | .reset => 20
  | .reserved => 21

/-- The request of the host's numbering: the request word is the low 6 bits of `w` (bits from `nbits` up
are 0), the arguments beside it are empty; a `w` with a higher bit set is no request word. -/
def requestOfWord (nbits w : Nat) : Option Request :=
  let v := w % 2 ^ nbits
  if v < 64 then some ⟨BitVec.ofNat 6 v, [], none⟩ else none

/-- What the decoder reads from a row's word, numbered as opcode_table.json numbers it. -/
def decodeTableWord (nbits w : Nat) : Option Instr := (requestOfWord nbits w).map decode

end Sys2Proof
end

