-- ==== Sys2Proof/Machine/State.lean ====
section
/-! DEFINITION. The state of the machine (spec 10_state.md): the reassembler's four elements (R26 to R30), the
constant record `CFG`, the two interfaces (R32, R33) and the two pieces of the environment the interfaces
start and stop (R35); the values the block delivers; and the reset state (R36). -/

namespace Sys2Proof.Machine

/-- The error kinds (R82, R270). The block itself produces only those that R272 lists; 8 to 12, 14
and 15 are the host's (X19). -/
inductive ErrKind where
  | invalidCommandType | responseTooShort | checksumMismatch | outOfBoundsRead | invalidDateValue
  | invalidTimeValue | nonAsciiData | bluetoothNotPoweredOn | scanTimeout | connectionFailed
  | discoveryFailed | deviceLocked | responseTimeout | disconnectTimeout | targetStateNotReached
deriving DecidableEq, Repr

/-- A tagged result value: `Ok(v)` or `Err(k)` (R14). An `Err` carries its kind and nothing else (R271). -/
inductive Res (α : Type) where
  | ok  (v : α)
  | err (k : ErrKind)
deriving DecidableEq, Repr

/-- A decoded date (R172). -/
structure Date where
  year  : Nat
  month : Nat
  day   : Nat
deriving DecidableEq, Repr

/-- A decoded time of day (R174). -/
structure TimeOfDay where
  hour   : Nat
  minute : Nat
  second : Nat
deriving DecidableEq, Repr

/-- The value of a field (R97): a raw integer with its descriptor's scale (R203), the 16 booleans of a
flag word with `flag[0]` first (R170), a date, a time, or the bytes of a string (R96). -/
inductive Value where
  | num   (raw : Int) (scale : Scale)
  | flags (flag : List Bool)
  | date  (d : Date)
  | time  (t : TimeOfDay)
  | text  (b : Bytes)
deriving DecidableEq, Repr

/-- The three record types (R81). -/
inductive RecordType where
  | dataMeasurements | usageSummary | productionData
deriving DecidableEq, Repr

/-- A record: a finite map from the field names of its layout to values, in layout order (R212). -/
structure Record where
  type   : RecordType
  fields : List (FieldName × Value)
deriving DecidableEq, Repr

/-- The output events of the reassembler (R33); `timerStart` carries its duration in seconds. -/
inductive Event where
  | frame (bytes : Bytes)
  | timeout (k : ErrKind)
  | unsub
  | timerStart (seconds : Nat)
deriving DecidableEq, Repr

/-- What leaves the block at its output interface (R33): the result of a `CRC8` (a bare byte, R124), of
an `ENC`, of a `PARSE`, or an event. -/
inductive Output where
  | crc (b : Byte)
  | enc (r : Res Bytes)
  | parse (r : Res Record)
  | event (e : Event)
deriving DecidableEq, Repr

/-- The values of `ra_state` (R26). -/
inductive RaState where
  | idle | awaitingFirstChunk | accumulating | complete | timedOut
deriving DecidableEq, Repr

/-- No operation of the block stops the machine with a fault: its errors are values that operations
return (R273, R274). The type has no value; log entry 12. -/
inductive Fault where
deriving DecidableEq, Repr

/-- Why the model gives an operation no step. -/
inductive Refusal where
  /-- Raised by an arm of `exec` for an operation that has no meaning yet; safe. No arm raises it. -/
  | notModelled (mnemonic : String)
  /-- Raised by the reserved request word `111xxx`, which the spec gives no meaning (R84, X1); safe. -/
  | reservedRequestWord
  /-- Raised by `ARM` while the reassembler is armed, whose result the spec does not define (R232, X2);
  safe. -/
  | armWhileArmed
  /-- Raised by `powerOn` for a `CFG` that breaks a well-formedness constraint (X3, X4), by no
  operation; safe. -/
  | illFormedCfg
deriving DecidableEq, Repr

/-- The state of the machine. -/
structure State where
  /-- The operations presented and not yet accepted, in the order in which they are presented: one total
  order over the host, the transport's FIFO and the timer (R32, R35 item 1, R61). -/
  requests     : List Request
  /-- `ra_state` (R26). -/
  raState      : RaState
  /-- `ra_declared`: -1 or the declared total length 0..255 (R27). -/
  raDeclared   : Int
  /-- `ra_chunks`: the accumulated chunk list in arrival order (R28). -/
  raChunks     : List Bytes
  /-- `ra_last_time`: the time value of the last appended chunk, or none (R30). -/
  raLastTime   : Option Nat
  /-- The notification subscription of R35 item 2, as the interface leaves it: made by `ARM` (R231),
  cancelled by `UNSUB`. -/
  subscribed   : Bool
  /-- The one external timer of R35 item 3: running from `TIMER_START` until it has presented `TMO`. -/
  timerRunning : Bool
  /-- The constant parameter record `CFG` (R8); no operation writes it (R66). -/
  cfg          : Cfg
  /-- Everything the output interface has delivered, oldest first (R33). -/
  out          : List Output
deriving DecidableEq, Repr

/-- The state after `RESET` or power-on (R36), with nothing presented and nothing delivered. -/
def State.reset : State where
  requests     := []
  raState      := .idle
  raDeclared   := -1
  raChunks     := []
  raLastTime   := none
  subscribed   := false
  timerRunning := false
  cfg          := Config.deviceCfg
  out          := []

end Sys2Proof.Machine
end

