-- ==== Sys2Proof/Machine/Ops.lean ====
section
/-! DEFINITION. The named operations that the meanings share: the numeric codes of states and errors, raising
an error and composing steps, the two interfaces, the registers of the reassembler and its buffer. -/

namespace Sys2Proof.Machine

/-- The 3-bit code of a reassembler state (R26). -/
def RaState.code : RaState → BitVec 3
  | .idle => 0
  | .awaitingFirstChunk => 1
  | .accumulating => 2
  | .complete => 3
  | .timedOut => 4

/-- `ERR_CODE` of an error kind, 1 to 15 (R82). -/
def ErrKind.code : ErrKind → BitVec 4
  | .invalidCommandType => 1
  | .responseTooShort => 2
  | .checksumMismatch => 3
  | .outOfBoundsRead => 4
  | .invalidDateValue => 5
  | .invalidTimeValue => 6
  | .nonAsciiData => 7
  | .bluetoothNotPoweredOn => 8
  | .scanTimeout => 9
  | .connectionFailed => 10
  | .discoveryFailed => 11
  | .deviceLocked => 12
  | .responseTimeout => 13
  | .disconnectTimeout => 14
  | .targetStateNotReached => 15

/-- `ERR_CODE` of a result: 0 for `Ok` (R82). -/
def Res.code {α : Type} : Res α → BitVec 4
  | .ok _ => 0
  | .err k => k.code

/-- `raise K`: the operation stops at that point with the result `Err(K)`, and whatever it had computed
is discarded (R276). This is the block's whole exception mechanism: nothing is saved, no control is
transferred (R273), and there is nothing to return from (R280, R281). -/
def raise {α : Type} (k : ErrKind) : Res α := .err k

/-- Steps compose left to right and the first failure ends the operation (R160, R176, R276). -/
def Res.bind {α β : Type} : Res α → (α → Res β) → Res β
  | .ok v, f => f v
  | .err k, _ => .err k

/-- `T_REASM`, the reassembly timeout, in seconds (R8, R231). -/
def tReasm : Nat := 10

/-- An operation's result goes back to whoever presented it (R33). -/
def State.deliver (o : Output) (s : State) : State := { s with out := s.out ++ [o] }

/-- `emit X`: the event leaves the block once (R33). `TIMER_START` starts or restarts the external timer,
`UNSUB` cancels the subscription. -/
def State.emit (e : Event) (s : State) : State :=
  { s with
    out := s.out ++ [.event e]
    timerRunning := match e with
      | .timerStart _ => true
      | _ => s.timerRunning
    subscribed := match e with
      | .unsub => false
      | _ => s.subscribed }

/-- Armed: the reassembler is in `AWAITING_FIRST_CHUNK` or `ACCUMULATING` (00_scope.md glossary). -/
def State.armed (s : State) : Bool := s.raState == .awaitingFirstChunk || s.raState == .accumulating

/-- `ra_count`, the accumulated byte count: the length of the concatenation of `ra_chunks` (R28). -/
def State.raCount (s : State) : Nat := s.raChunks.flatten.length

/-- `ra_state <- v`. -/
def State.setRaState (v : RaState) (s : State) : State := { s with raState := v }

/-- `ra_declared`, `ra_chunks` and `ra_last_time` to their initial values (R231, R310). -/
def State.clearRa (s : State) : State :=
  { s with raDeclared := -1, raChunks := [], raLastTime := none }

/-- `ARM` stands for the creation of the notification subscription (R231). -/
def State.subscribe (s : State) : State := { s with subscribed := true }

/-- The external timer is not running and no `TMO` is pending (R35 item 3, R36). -/
def State.stopTimer (s : State) : State := { s with timerRunning := false }

/-- A chunk that is neither empty nor equal, as a whole, to one of the two echo constants (R235, R236). -/
def isDataChunk (c : Cfg) (chunk : Bytes) : Bool :=
  !chunk.isEmpty && !(chunk == c.echoOn || chunk == c.echoOff)

/-- The first data chunk: its byte 0 is the declared length, and the whole chunk becomes the first
element of the buffer (R237). -/
def State.storeFirstChunk (chunk : Bytes) (t : Option Nat) (s : State) : State :=
  { s with raDeclared := ((chunk.headD 0).toNat : Int), raChunks := [chunk], raLastTime := t,
           raState := .accumulating }

/-- A subsequent chunk is appended in arrival order and not inspected (R238). -/
def State.appendChunk (chunk : Bytes) (t : Option Nat) (s : State) : State :=
  { s with raChunks := s.raChunks ++ [chunk], raLastTime := t }

/-- The completion test made after every append: at `ra_count >= ra_declared` the whole concatenation is
delivered, untrimmed, and the subscription is cancelled (R239, R241). -/
def State.completeIfFull (s : State) : State :=
  if s.raDeclared ≤ (s.raCount : Int) then
    ((s.setRaState .complete).emit (.frame s.raChunks.flatten)).emit .unsub
  else s

/-- What the host may read between operations, changing nothing: `ra_state`, in its 3-bit code, and no
other element (R34). -/
def State.hostReadsRaState (s : State) : BitVec 3 := s.raState.code

/-- The block accepts the first operation that is presented; it does nothing until one is (R32, R312). -/
def State.nextRequest (s : State) : Option (Request × State) :=
  match s.requests with
  | [] => none
  | r :: rs => some (r, { s with requests := rs })

/-- An agent presents an operation ahead of those that wait (the host's `withFetchWord`). -/
def State.present (r : Request) (s : State) : State := { s with requests := r :: s.requests }

/-- Power-on with a given `CFG`: a record that breaks a well-formedness constraint is refused (X3), and
otherwise the block is in the reset state with that record as its constant (R36). -/
def powerOn (c : Cfg) : Host.Outcome State Fault Refusal :=
  if c.wf then .next { State.reset with cfg := c } else .refused .illFormedCfg

end Sys2Proof.Machine
end

