-- ==== Sys2Proof/Machine/Encoder.lean ====
section
/-! DEFINITION. Unit U2, the command frame encoder (spec 41_command_encoder.md): the common algorithm and the
`ENC` operations, the invalid codes among them. -/

namespace Sys2Proof.Machine

/-- The command frame of a template: the template, then its checksum (R59, R85, R141). -/
def commandFrame (t : Bytes) : Bytes := t ++ [crc8 t]

/-- `enc(c)` for a command code of the closed set (R141). -/
def encOk (t : Bytes) (s : State) : Host.Outcome State Fault Refusal :=
  .next (s.deliver (.enc (.ok (commandFrame t))))

/-- `ENC` with a code outside the closed set: no template is read and no checksum is run (R147). -/
def encInvalid (s : State) : Host.Outcome State Fault Refusal :=
  .next (s.deliver (.enc (raise .invalidCommandType)))

/-- `ENC.DATA_MEASUREMENTS` (R142). -/
def execEncDataMeasurements (s : State) : Host.Outcome State Fault Refusal :=
  encOk s.cfg.templates.dataMeasurements s

/-- `ENC.USAGE_SUMMARY` (R143). -/
def execEncUsageSummary (s : State) : Host.Outcome State Fault Refusal :=
  encOk s.cfg.templates.usageSummary s

/-- `ENC.PRODUCTION_DATA` (R144). -/
def execEncProductionData (s : State) : Host.Outcome State Fault Refusal :=
  encOk s.cfg.templates.productionData s

/-- `ENC.MOSFET_ON` (R145). -/
def execEncMosfetOn (s : State) : Host.Outcome State Fault Refusal :=
  encOk s.cfg.templates.mosfetOn s

/-- `ENC.MOSFET_OFF` (R146). -/
def execEncMosfetOff (s : State) : Host.Outcome State Fault Refusal :=
  encOk s.cfg.templates.mosfetOff s

/-- `ENC` with code 5 (R147). -/
def execEncInvalid5 (s : State) : Host.Outcome State Fault Refusal := encInvalid s

/-- `ENC` with code 6 (R147). -/
def execEncInvalid6 (s : State) : Host.Outcome State Fault Refusal := encInvalid s

/-- `ENC` with code 7 (R147). -/
def execEncInvalid7 (s : State) : Host.Outcome State Fault Refusal := encInvalid s

end Sys2Proof.Machine
end

