-- ==== Sys2Proof/Machine/Flags.lean ====
section
/-! DEFINITION. Flag banks (spec 42_response_parser_primitives.md R170; 43_response_parser_records.md R204 to
R206). The block has no status flags and no condition codes (R23): these flags are data of a record. -/

namespace Sys2Proof.Machine

/-- The 16 booleans of a flag word: `flag[i]` is bit i, `flag[0]` first; all 16 are delivered, named or
not, and no value of the word is invalid (R93, R170, X13). -/
def unpackFlags (w : Word16) : List Bool := (List.range 16).map fun i => w.getLsbD i

/-- The field that a bank is delivered in (R201). -/
def bankField : FlagBank → FieldName
  | .alarms => .alarms
  | .warnings => .warnings
  | .status => .status
  | .alarms2 => .alarms2

/-- The value of a field of a record (R212). -/
def Record.lookup (r : Record) (n : FieldName) : Option Value :=
  (r.fields.find? fun f => f.1 == n).map Prod.snd

/-- One flag of a bank of a record (R204). -/
def Record.flag (r : Record) (b : FlagBank) (i : Fin 16) : Option Bool :=
  match r.lookup (bankField b) with
  | some (.flags fs) => fs[i.val]?
  | _ => none

/-- `FLAG_NAME[bank][bit]`: the name of a flag, or none for an unnamed one (R205). -/
def flagName (c : Cfg) (b : FlagBank) (i : Fin 16) : Option String :=
  (c.flagNames.find? fun l => l.bank == b && l.bit == i).map FlagLabel.name

/-- `mosfetOn = status.flag[MOSFET_ON_BIT]` (R206). -/
def mosfetOn (c : Cfg) (r : Record) : Option Bool := r.flag .status c.mosfetOnBit

end Sys2Proof.Machine
end

