-- ==== Sys2Proof/Machine/Operands.lean ====
section
/-! DEFINITION. The reads of the parser (spec 42_response_parser_primitives.md R164 to R175): the bounds-checked
read, the integer words, the packed date and time, the ASCII range, and the read of a descriptor. -/

namespace Sys2Proof.Machine

/-- `MemRead(P, off, n)`: a read that would touch an offset at or beyond `len(P)` is not performed
(R57, R164). -/
def memRead (p : Bytes) (off n : Nat) : Res Bytes :=
  if off + n > p.length then raise .outOfBoundsRead else .ok ((p.drop off).take n)

/-- Big-endian: the byte at the lower offset holds bits 15 to 8 (R51). -/
def joinBytes (hi lo : Byte) : Word16 := hi ++ lo

/-- `(msbWord << 16) | lsbWord`, both words unsigned (R92, R169). -/
def joinWords (msw lsw : Word16) : Word32 := msw ++ lsw

/-- A 16-bit word at a byte offset, even or odd (R51, R55, R165). -/
def readWord (p : Bytes) (off : Nat) : Res Word16 :=
  (memRead p off 2).bind fun b => .ok (joinBytes (b.getD 0 0) (b.getD 1 0))

/-- The 32-bit composite of two words, the most significant word read first (R167). -/
def readWord32 (p : Bytes) (offMsw offLsw : Nat) : Res Word32 :=
  (readWord p offMsw).bind fun m => (readWord p offLsw).bind fun l => .ok (joinWords m l)

/-- `zext`: the unsigned value of a pattern (R12). -/
def unsigned {w : Nat} (v : BitVec w) : Int := v.toNat

/-- `sext_N`: the two's-complement value of an N-bit pattern (R12, D11). -/
def sext {w : Nat} (v : BitVec w) : Int :=
  if 2 * v.toNat < 2 ^ w then v.toNat else (v.toNat : Int) - 2 ^ w

/-- `BASE_YEAR`, the year of packed-date offset 0 (R8). -/
def baseYear : Nat := 1980

/-- `w[hi:lo]` as an unsigned integer (R10). -/
def slice (w : Word16) (hi lo : Nat) : Nat := (w.extractLsb hi lo).toNat

/-- Validation and value of a packed date word: 7 bits of year offset, 4 of month, 5 of day, from the
top (R94, R171, R172). There is no calendar check. -/
def dateOfWord (w : Word16) : Res Date :=
  let month := slice w 8 5
  let day := slice w 4 0
  if month < 1 ∨ month > 12 then raise .invalidDateValue
  else if day < 1 ∨ day > 31 then raise .invalidDateValue
  else .ok ⟨baseYear + slice w 15 9, month, day⟩

/-- Validation and value of a packed time word: 5 bits of hour, 6 of minute, 5 of 2-second units, from
the top (R95, R173, R174). -/
def timeOfWord (w : Word16) : Res TimeOfDay :=
  let hour := slice w 15 11
  let minute := slice w 10 5
  let hs := slice w 4 0
  if hour > 23 then raise .invalidTimeValue
  else if minute > 59 then raise .invalidTimeValue
  else if hs > 29 then raise .invalidTimeValue
  else .ok ⟨hour, minute, hs * 2⟩

/-- Printable ASCII, `0x20` to `0x7E`, both bounds inclusive (R96, R175). -/
def isPrintable (b : Byte) : Bool := decide (0x20 ≤ b.toNat) && decide (b.toNat ≤ 0x7E)

/-- Read `ASCII(off, n)`: the bytes themselves, no terminator looked for, no padding stripped
(R96, R175). -/
def readAscii (p : Bytes) (off n : Nat) : Res Bytes :=
  (memRead p off n).bind fun b => if b.all isPrintable then .ok b else raise .nonAsciiData

/-- The divisor that a scale stands for: the physical value of a field is the exact rational `raw / divisor`.
The block delivers both and does not divide (R8, R203). -/
def scaleDivisor : Scale → Nat
  | .one => 1
  | .ten => 10
  | .hundred => 100
  | .thousand => 1000

/-- The read of one descriptor (R97): bounds check, then value check (R215). -/
def readDesc (p : Bytes) : Desc → Res Value
  | .u16 _ off sc => (readWord p off).bind fun w => .ok (.num (unsigned w) sc)
  | .s16 _ off sc => (readWord p off).bind fun w => .ok (.num (sext w) sc)
  | .u32 _ m l sc => (readWord32 p m l).bind fun v => .ok (.num (unsigned v) sc)
  | .s32 _ m l sc => (readWord32 p m l).bind fun v => .ok (.num (sext v) sc)
  | .flags16 _ off => (readWord p off).bind fun w => .ok (.flags (unpackFlags w))
  | .date _ off => (readWord p off).bind fun w => (dateOfWord w).bind fun d => .ok (.date d)
  | .time _ off => (readWord p off).bind fun w => (timeOfWord w).bind fun t => .ok (.time t)
  | .ascii _ off n => (readAscii p off n).bind fun b => .ok (.text b)

/-- Field extraction: one descriptor after another in list order, the first failure ends it
(R160 step 5, R215). -/
def readFields (p : Bytes) : List Desc → Res (List (FieldName × Value))
  | [] => .ok []
  | d :: ds =>
    (readDesc p d).bind fun v => (readFields p ds).bind fun fs => .ok ((d.name, v) :: fs)

end Sys2Proof.Machine
end

