-- ==== Sys2Proof/Machine/Parser.lean ====
section
/-! DEFINITION. Unit U3, the response frame parser (spec 42_response_parser_primitives.md R160 to R163,
43_response_parser_records.md): frame validation, the three records, dispatch, and the `PARSE` operations. -/

namespace Sys2Proof.Machine

/-- `MIN_FRAME_LEN`, the minimum response frame length (R8, R161). -/
def minFrameLen : Nat := 2

/-- `PD_MIN_LEN`, the minimum payload length of PRODUCTION_DATA (R8, R210). -/
def pdMinLen : Nat := 32

/-- The payload of a frame: every byte but the last, which is the checksum (R162, R163). -/
def payload (raw : Bytes) : Bytes := raw.dropLast

/-- Frame validation: the length test, then the checksum test; the value is the payload (R161, R162). -/
def validateFrame (raw : Bytes) : Res Bytes :=
  if raw.length < minFrameLen then raise .responseTooShort
  else if crc8 (payload raw) ≠ raw.getLastD 0 then raise .checksumMismatch
  else .ok (payload raw)

/-- Extraction of a record by its layout (R200). -/
def extract (t : RecordType) (layout : List Desc) (p : Bytes) : Res Record :=
  (readFields p layout).bind fun fs => .ok ⟨t, fs⟩

/-- The pipeline of `PARSE.DATA_MEASUREMENTS` (R200). -/
def parseDm (c : Cfg) (raw : Bytes) : Res Record :=
  (validateFrame raw).bind fun p => extract .dataMeasurements c.layoutDm p

/-- The pipeline of `PARSE.USAGE_SUMMARY` (R207). -/
def parseUs (c : Cfg) (raw : Bytes) : Res Record :=
  (validateFrame raw).bind fun p => extract .usageSummary c.layoutUs p

/-- The pipeline of `PARSE.PRODUCTION_DATA`: the payload holds at least 32 bytes (R209, R210). -/
def parsePd (c : Cfg) (raw : Bytes) : Res Record :=
  (validateFrame raw).bind fun p =>
    if p.length < pdMinLen then raise .responseTooShort else extract .productionData c.layoutPd p

/-- The pipeline of `PARSE` with a code that has no record type: frame validation, then the error
(R214). -/
def parseNoRecord (raw : Bytes) : Res Record :=
  (validateFrame raw).bind fun _ => raise .invalidCommandType

/-- `PARSE.DATA_MEASUREMENTS` (R200). -/
def execParseDataMeasurements (raw : Bytes) (s : State) : Host.Outcome State Fault Refusal :=
  .next (s.deliver (.parse (parseDm s.cfg raw)))

/-- `PARSE.USAGE_SUMMARY` (R207). -/
def execParseUsageSummary (raw : Bytes) (s : State) : Host.Outcome State Fault Refusal :=
  .next (s.deliver (.parse (parseUs s.cfg raw)))

/-- `PARSE.PRODUCTION_DATA` (R209). -/
def execParseProductionData (raw : Bytes) (s : State) : Host.Outcome State Fault Refusal :=
  .next (s.deliver (.parse (parsePd s.cfg raw)))

/-- `PARSE.MOSFET_ON` (R214). -/
def execParseMosfetOn (raw : Bytes) (s : State) : Host.Outcome State Fault Refusal :=
  .next (s.deliver (.parse (parseNoRecord raw)))

/-- `PARSE.MOSFET_OFF` (R214). -/
def execParseMosfetOff (raw : Bytes) (s : State) : Host.Outcome State Fault Refusal :=
  .next (s.deliver (.parse (parseNoRecord raw)))

/-- `PARSE` with code 5 (R214). -/
def execParseInvalid5 (raw : Bytes) (s : State) : Host.Outcome State Fault Refusal :=
  .next (s.deliver (.parse (parseNoRecord raw)))

/-- `PARSE` with code 6 (R214). -/
def execParseInvalid6 (raw : Bytes) (s : State) : Host.Outcome State Fault Refusal :=
  .next (s.deliver (.parse (parseNoRecord raw)))

/-- `PARSE` with code 7 (R214). -/
def execParseInvalid7 (raw : Bytes) (s : State) : Host.Outcome State Fault Refusal :=
  .next (s.deliver (.parse (parseNoRecord raw)))

end Sys2Proof.Machine
end

