-- ==== Sys2Proof/Machine/Reassembler.lean ====
section
/-! DEFINITION. Unit U4, the chunk reassembler (spec 44_chunk_reassembler.md): `ARM`, `NTF` and `TMO`. -/

namespace Sys2Proof.Machine

/-- `ARM`: a fresh request with no memory of the old one (R231). While armed the spec does not define
the resulting state, and the model gives no step (R232, X2). -/
def execArm (s : State) : Host.Outcome State Fault Refusal :=
  if s.armed then .refused .armWhileArmed
  else .next ((s.clearRa.subscribe.setRaState .awaitingFirstChunk).emit (.timerStart tReasm))

/-- What a data chunk does in an armed state: stored as the first or appended, then the completion test,
in the same step (R237, R238, R239). -/
def State.acceptChunk (chunk : Bytes) (t : Option Nat) (s : State) : State :=
  if s.raState = .awaitingFirstChunk then (s.storeFirstChunk chunk t).completeIfFull
  else (s.appendChunk chunk t).completeIfFull

/-- `NTF chunk [t]`: ignored when not armed (R243), when empty (R235) and when an echo (R236). -/
def execNtf (chunk : Bytes) (t : Option Nat) (s : State) : Host.Outcome State Fault Refusal :=
  if s.armed && isDataChunk s.cfg chunk then .next (s.acceptChunk chunk t) else .next s

/-- `TMO`: while armed the request fails with `ResponseTimeout` (R245), otherwise nothing of the block
changes (R246). The one-shot timer has presented its expiry (R35 item 3). -/
def execTmo (s : State) : Host.Outcome State Fault Refusal :=
  if s.armed then
    .next (((s.stopTimer.setRaState .timedOut).emit (.timeout .responseTimeout)).emit .unsub)
  else .next s.stopTimer

end Sys2Proof.Machine
end

