-- ==== Sys2Proof/Machine/System.lean ====
section
/-! DEFINITION. `RESET` (spec 70_reset_and_hazards.md R310) and the reserved request word (30_encoding.md R84). -/

namespace Sys2Proof.Machine

/-- `RESET`: accepted in every state, silent, every element of the reassembler to its reset value
(R310); afterwards the external timer is not running (R36). -/
def execReset (s : State) : Host.Outcome State Fault Refusal :=
  .next (s.clearRa.stopTimer.setRaState .idle)

/-- The request word `111xxx`: reserved, no meaning is given, the model refuses it (R84, X1). -/
def execReserved (_s : State) : Host.Outcome State Fault Refusal := .refused .reservedRequestWord

end Sys2Proof.Machine
end

