-- ==== Sys2Proof/Machine/Dispatch.lean ====
section
/-! DEFINITION. The dispatch of an operation to its meaning, one arm per row of spec/opcode_table.json. -/

namespace Sys2Proof.Machine

def exec (i : Instr) (s : State) : Host.Outcome State Fault Refusal :=
  match i with
  | .crc8 bytes => Sys2Proof.Machine.execCrc8 bytes s
  | .encDataMeasurements => Sys2Proof.Machine.execEncDataMeasurements s
  | .encUsageSummary => Sys2Proof.Machine.execEncUsageSummary s
  | .encProductionData => Sys2Proof.Machine.execEncProductionData s
  | .encMosfetOn => Sys2Proof.Machine.execEncMosfetOn s
  | .encMosfetOff => Sys2Proof.Machine.execEncMosfetOff s
  | .encInvalid5 => Sys2Proof.Machine.execEncInvalid5 s
  | .encInvalid6 => Sys2Proof.Machine.execEncInvalid6 s
  | .encInvalid7 => Sys2Proof.Machine.execEncInvalid7 s
  | .parseDataMeasurements raw => Sys2Proof.Machine.execParseDataMeasurements raw s
  | .parseUsageSummary raw => Sys2Proof.Machine.execParseUsageSummary raw s
  | .parseProductionData raw => Sys2Proof.Machine.execParseProductionData raw s
  | .parseMosfetOn raw => Sys2Proof.Machine.execParseMosfetOn raw s
  | .parseMosfetOff raw => Sys2Proof.Machine.execParseMosfetOff raw s
  | .parseInvalid5 raw => Sys2Proof.Machine.execParseInvalid5 raw s
  | .parseInvalid6 raw => Sys2Proof.Machine.execParseInvalid6 raw s
  | .parseInvalid7 raw => Sys2Proof.Machine.execParseInvalid7 raw s
  | .arm => Sys2Proof.Machine.execArm s
  | .ntf chunk t => Sys2Proof.Machine.execNtf chunk t s
  | .tmo => Sys2Proof.Machine.execTmo s
  | .reset => Sys2Proof.Machine.execReset s
  | .reserved => Sys2Proof.Machine.execReserved s

end Sys2Proof.Machine
end

