-- ==== Sys2Proof/Machine/Step.lean ====
section
/-! DEFINITION. One step of the machine: the block accepts one operation and finishes it, with all its state
changes and outputs, before it accepts the next (spec 10_state.md R32, 20_memory.md R61, 60_exceptions.md R280). -/

namespace Sys2Proof.Machine

/-- One step. With no operation presented the block does nothing (R312). -/
def step (s : State) : Host.Outcome State Fault Refusal :=
  match s.nextRequest with
  | none => .next s
  | some (r, s') => exec (decode r) s'

/-- `s` with the operation of a table word (its arguments empty) presented next. -/
def State.withFetchWord (s : State) (nbits w : Nat) : State :=
  match requestOfWord nbits w with
  | none => s
  | some r => s.present r

end Sys2Proof.Machine
end

