-- ==== Sys2Proof/Safety.lean ====
section
/-! DEFINITION. What counts as a safe run, in the terms the claims use: the environment's contract (spec
60_exceptions.md R291), the invariants of the reassembler (10_state.md R37, R29) and of its deliveries
(44_chunk_reassembler.md R242), the kinds of a record's values (30_encoding.md R97), and runs of operations. -/

namespace Sys2Proof.Machine

/-- The constraints on a well-formed `CFG`, as 92_eei_decisions.md section 2, X4, R52 and the tables of R201,
R203, R208 and R211 give them. The further counters of a measurement layout are those that R201 allows. -/
structure CfgConstraints (c : Cfg) : Prop where
  echoes : c.echoOn ≠ [] ∧ c.echoOff ≠ []
  chunkMax : 1 ≤ c.chunkMax
  composites : ∀ name m l sc,
    .u32 name m l sc ∈ c.layoutDm ++ c.layoutUs ++ c.layoutPd ∨
    .s32 name m l sc ∈ c.layoutDm ++ c.layoutUs ++ c.layoutPd → l = m + 2 ∨ m = l + 2
  names : (c.layoutDm.map Desc.name).Nodup ∧ (c.layoutUs.map Desc.name).Nodup ∧
    (c.layoutPd.map Desc.name).Nodup
  measurements : ∃ last : List FieldSpec, (last = [] ∨ last = [(.alarms2, .flags16, none)]) ∧
    (c.layoutDm.filter fun d => match d with
      | .u16 (.counter _) _ _ => false
      | _ => true).map (fun d => (d.name, d.kind, d.scale)) =
    [(.tempCell, .s16, some c.scaleTemp), (.tempShunt, .s16, some c.scaleTemp),
     (.current, .s32, some .hundred)] ++
    (List.range 20).map (fun i => (.voltages i, .u16, some .thousand)) ++
    [(.avgCellVoltage, .u16, some c.scaleAvgV), (.socPercent, .u16, some c.scaleSocPct),
     (.socScaled, .u32, some c.scaleSoc32),
     (.alarms, .flags16, none), (.warnings, .flags16, none), (.status, .flags16, none),
     (.dateRtc, .date, none), (.hourRtc, .time, none), (.time2, .time, none), (.time3, .time, none),
     (.chargeCycles, .u16, some .one), (.maxCurrent, .u16, some c.scaleMaxCur)] ++ last
  offsets : ∀ d ∈ c.layoutDm, ∀ o ∈ d.offsets, 1 ≤ o
  usage : ∃ counters off, counters ≠ [] ∧ c.layoutUs = counters ++ [.date .date off] ∧
    ∀ d ∈ counters, ∃ k o, d = .u16 (.counter k) o .one
  production : ∃ o a n b m, c.layoutPd = [.date .installDate o, .ascii .serial a n, .ascii .tag b m]

/-- What the environment may present in a state (R291): no reserved request word, no `ARM` while armed, no
chunk longer than `CHUNK_MAX`, and a `TMO` only from a running timer. -/
def allowed (s : State) (r : Request) : Bool :=
  (decode r).wf s.cfg &&
  match decode r with
  | .arm => !s.armed
  | .tmo => s.timerRunning
  | _ => true

/-- The declared length is byte 0 of the accumulated bytes (R37). -/
def declaredIsFirstByte (s : State) : Prop :=
  s.raChunks.flatten.head?.map (fun b => (b.toNat : Int)) = some s.raDeclared

/-- R37's clause for `IDLE` and `AWAITING_FIRST_CHUNK`. -/
def nothingAccumulated (s : State) : Prop := s.raDeclared = -1 ∧ s.raChunks = []

/-- R37's clause for `ACCUMULATING`. -/
def partlyAccumulated (s : State) : Prop :=
  0 ≤ s.raDeclared ∧ s.raDeclared ≤ 255 ∧ s.raChunks ≠ [] ∧ declaredIsFirstByte s ∧
  1 ≤ s.raCount ∧ (s.raCount : Int) < s.raDeclared

/-- R37's clause for `COMPLETE`: the last chunk, and no earlier one, brought the count to the declared
length. -/
def fullyAccumulated (s : State) : Prop :=
  declaredIsFirstByte s ∧ s.raDeclared ≤ (s.raCount : Int) ∧
  (s.raChunks.length ≠ 1 → (s.raChunks.dropLast.flatten.length : Int) < s.raDeclared)

/-- The invariants of R37. -/
def ReassemblerInv (s : State) : Prop :=
  (match s.raState with
   | .idle | .awaitingFirstChunk => nothingAccumulated s
   | .accumulating => partlyAccumulated s
   | .complete => fullyAccumulated s
   | .timedOut => nothingAccumulated s ∨ partlyAccumulated s) ∧
  ∀ c ∈ s.raChunks, isDataChunk s.cfg c = true

/-- The capacity bound of R29. -/
def CapacityInv (s : State) : Prop := s.raCount ≤ 254 + s.cfg.chunkMax

/-- While the reassembler is armed the subscription exists and the timer runs, so that a `TMO` can end the
wait (R231, R291). -/
def LiveRequestInv (s : State) : Prop :=
  s.armed = true → s.subscribed = true ∧ s.timerRunning = true

/-- The event that begins a request. -/
def Output.isTimerStart : Output → Bool
  | .event (.timerStart _) => true
  | _ => false

/-- The events that settle a request: `FRAME` and `TIMEOUT`. -/
def Output.settles : Output → Bool
  | .event (.frame _) | .event (.timeout _) => true
  | _ => false

/-- The outputs since the last `TIMER_START`, the latest first. -/
def sinceArm (out : List Output) : List Output := out.reverse.takeWhile fun o => !o.isTimerStart

/-- The settling events since the last `TIMER_START`, the latest first. -/
def settledSinceArm (out : List Output) : List Output := (sinceArm out).filter Output.settles

/-- Between two `TIMER_START` events (two `ARM` operations) at most one `FRAME` or `TIMEOUT`, and never
both (R242). -/
def SettledAtMostOnce (out : List Output) : Prop :=
  ∀ pre mid post : List Output, out = pre ++ mid ++ post →
    (∀ o ∈ mid, o.isTimerStart = false) → (mid.filter Output.settles).length ≤ 1

/-- Exactly-once delivery (R242) with what makes it inductive: nothing is settled while armed, the frame
delivered in `COMPLETE` is the whole accumulation, and `TIMED_OUT` was reported. -/
def DeliveryInv (s : State) : Prop :=
  SettledAtMostOnce s.out ∧
  (s.armed = true → settledSinceArm s.out = []) ∧
  (s.raState = .complete → settledSinceArm s.out = [.event (.frame s.raChunks.flatten)]) ∧
  (s.raState = .timedOut → settledSinceArm s.out = [.event (.timeout .responseTimeout)])

/-- A value is of a descriptor's kind, in that kind's range, with the descriptor's scale (R97, R165 to
R175). -/
def Value.ofKind : Kind → Option Scale → Value → Bool
  | .u16, some sc, .num v s => decide (0 ≤ v) && decide (v < 65536) && s == sc
  | .s16, some sc, .num v s => decide (-32768 ≤ v) && decide (v < 32768) && s == sc
  | .u32, some sc, .num v s => decide (0 ≤ v) && decide (v < 4294967296) && s == sc
  | .s32, some sc, .num v s => decide (-2147483648 ≤ v) && decide (v < 2147483648) && s == sc
  | .flags16, none, .flags f => f.length == 16
  | .date, none, .date d =>
    decide (1980 ≤ d.year) && decide (d.year ≤ 2107) && decide (1 ≤ d.month) && decide (d.month ≤ 12) &&
    decide (1 ≤ d.day) && decide (d.day ≤ 31)
  | .time, none, .time t =>
    decide (t.hour ≤ 23) && decide (t.minute ≤ 59) && decide (t.second ≤ 58) && t.second % 2 == 0
  | .ascii, none, .text b => b.all isPrintable
  | _, _, _ => false

/-- The operations of U1, U2 and U3, which neither read nor write the reassembler (R317). -/
def pureOp : Instr → Bool
  | .arm | .ntf _ _ | .tmo | .reset | .reserved => false
  | .crc8 _ | .encDataMeasurements | .encUsageSummary | .encProductionData | .encMosfetOn
  | .encMosfetOff | .encInvalid5 | .encInvalid6 | .encInvalid7 | .parseDataMeasurements _
  | .parseUsageSummary _ | .parseProductionData _ | .parseMosfetOn _ | .parseMosfetOff _
  | .parseInvalid5 _ | .parseInvalid6 _ | .parseInvalid7 _ => true

/-- The `PARSE` forms whose code has no record type (R214). -/
def noRecordForms (raw : Bytes) : List Instr :=
  [.parseMosfetOn raw, .parseMosfetOff raw, .parseInvalid5 raw, .parseInvalid6 raw, .parseInvalid7 raw]

/-- The eight `PARSE` forms over one byte sequence (R83). -/
def parseForms (raw : Bytes) : List Instr :=
  [.parseDataMeasurements raw, .parseUsageSummary raw, .parseProductionData raw] ++ noRecordForms raw

/-- A `PARSE` form that has a record type, with the type, its layout and the least payload length it accepts
(R200, R207, R209, R210). -/
structure RecordForm where
  op     : Bytes → Instr
  type   : RecordType
  layout : List Desc
  minLen : Nat

/-- The three `PARSE` forms that have a record type, under a configuration. -/
def recordForms (c : Cfg) : List RecordForm :=
  [⟨.parseDataMeasurements, .dataMeasurements, c.layoutDm, 0⟩,
   ⟨.parseUsageSummary, .usageSummary, c.layoutUs, 0⟩,
   ⟨.parseProductionData, .productionData, c.layoutPd, 32⟩]

/-- A list of operations, one after another (R61), stopping at the first that answers no next state. -/
def execAll : List Instr → State → Host.Outcome State Fault Refusal
  | [], s => .next s
  | i :: is, s =>
    match exec i s with
    | .next t => execAll is t
    | .fault f => .fault f
    | .refused r => .refused r

/-- A stream of notifications as operations, in the order of delivery. -/
def notifications (ns : List (Bytes × Option Nat)) : List Instr := ns.map fun n => .ntf n.1 n.2

/-- The data chunks of a stream of notifications, in order: empty and echo chunks are skipped (R249). -/
def dataChunks (c : Cfg) (ns : List (Bytes × Option Nat)) : List Bytes :=
  (ns.map Prod.fst).filter (isDataChunk c)

/-- The length that a list of chunks declares: byte 0 of its first byte (R237). -/
def declaredLength (cs : List Bytes) : Nat := (cs.flatten.headD 0).toNat

end Sys2Proof.Machine
end

