-- ==== Sys2Proof/Certificates/Slice0/Obligations.lean ====
section
/-! DEFINITION. The statements about the machine, for the provers. Each docstring names the rule or the
sentence of the spec that it formalises, and the model's or the spec's own choice where it rests on one. -/

open Sys2Proof Sys2Proof.Machine

/-! ## Encoding -/

/-- Which operation each request word selects, for every value of the ignored bits and of the arguments
(the code table of 30_encoding.md section 1, which is the spec's decision D2, D3). -/
def Obligations.RequestWordSelectsOperation : Prop :=
  ∀ (low : BitVec 3) (b : Bytes) (t : Option Nat),
    decode ⟨0b000#3 ++ low, b, t⟩ = .crc8 b ∧
    decode ⟨0b001000, b, t⟩ = .encDataMeasurements ∧
    decode ⟨0b001001, b, t⟩ = .encUsageSummary ∧
    decode ⟨0b001010, b, t⟩ = .encProductionData ∧
    decode ⟨0b001011, b, t⟩ = .encMosfetOn ∧
    decode ⟨0b001100, b, t⟩ = .encMosfetOff ∧
    decode ⟨0b001101, b, t⟩ = .encInvalid5 ∧
    decode ⟨0b001110, b, t⟩ = .encInvalid6 ∧
    decode ⟨0b001111, b, t⟩ = .encInvalid7 ∧
    decode ⟨0b010000, b, t⟩ = .parseDataMeasurements b ∧
    decode ⟨0b010001, b, t⟩ = .parseUsageSummary b ∧
    decode ⟨0b010010, b, t⟩ = .parseProductionData b ∧
    decode ⟨0b010011, b, t⟩ = .parseMosfetOn b ∧
    decode ⟨0b010100, b, t⟩ = .parseMosfetOff b ∧
    decode ⟨0b010101, b, t⟩ = .parseInvalid5 b ∧
    decode ⟨0b010110, b, t⟩ = .parseInvalid6 b ∧
    decode ⟨0b010111, b, t⟩ = .parseInvalid7 b ∧
    decode ⟨0b011#3 ++ low, b, t⟩ = .arm ∧
    decode ⟨0b100#3 ++ low, b, t⟩ = .ntf b t ∧
    decode ⟨0b101#3 ++ low, b, t⟩ = .tmo ∧
    decode ⟨0b110#3 ++ low, b, t⟩ = .reset ∧
    decode ⟨0b111#3 ++ low, b, t⟩ = .reserved

/-- Every one of the 64 request words matches exactly one row of the opcode table, the row of the operation
it decodes to (30_encoding.md section 1). -/
def Obligations.RequestWordMatchesExactlyOneRow : Prop :=
  ∀ w : OpWord, (opTable.filter fun r => r.matches w).length = 1 ∧
    (opTable[rowIndex (decode ⟨w, [], none⟩)]?.map fun r => r.matches w) = some true

/-- No bit and no argument of a request is dropped but those that its operation ignores: decoding the
encoding of any operation gives it back, and encoding what a request decodes to gives its request word
under its row's mask, with the arguments that the operation takes. -/
def Obligations.DecodeAndEncodeAgree : Prop :=
  (∀ i : Instr, decode (encode i) = i) ∧
  ∀ r : Request,
    (∃ row ∈ opTable, row.matches r.opw = true ∧ (encode (decode r)).opw = r.opw &&& row.mask) ∧
    (opCode r.opw = 0 ∨ opCode r.opw = 2 ∨ opCode r.opw = 4 → (encode (decode r)).bytes = r.bytes) ∧
    (opCode r.opw = 4 → (encode (decode r)).time = r.time)

/-- The numeric codes of reassembler states and error kinds, and that the host's read of the state yields the
code of `ra_state` (10_state.md sections 4 and 5, 30_encoding.md section 1; the spec's decisions D2, D4, D17;
that the read is a function and no operation is log entry 16). -/
def Obligations.StateAndErrorCodes : Prop :=
  [RaState.idle, .awaitingFirstChunk, .accumulating, .complete, .timedOut].map RaState.code =
    [0, 1, 2, 3, 4] ∧
  [ErrKind.invalidCommandType, .responseTooShort, .checksumMismatch, .outOfBoundsRead, .invalidDateValue,
   .invalidTimeValue, .nonAsciiData, .bluetoothNotPoweredOn, .scanTimeout, .connectionFailed,
   .discoveryFailed, .deviceLocked, .responseTimeout, .disconnectTimeout, .targetStateNotReached].map
     ErrKind.code = [1, 2, 3, 4, 5, 6, 7, 8, 9, 10, 11, 12, 13, 14, 15] ∧
  (∀ (b : Bytes) (k : ErrKind), (Res.ok b).code = 0 ∧ (Res.err k : Res Bytes).code = k.code) ∧
  ∀ s : State, s.hostReadsRaState = s.raState.code

/-! ## The machine: presenting, stepping, stopping -/

/-- A step accepts the operation that is presented first and is that operation's meaning at the state
without the request (10_state.md R32; the queue is the model's, log entry 1). -/
def Obligations.StepRunsTheDecodedOperation : Prop :=
  ∀ (s : State) (r : Request) (rs : List Request), s.requests = r :: rs →
    step s = exec (decode r) { s with requests := rs }

/-- With no operation presented a step leaves the state as it is. The spec says that the block does nothing
until an operation is presented (R312); that a step then answers the same state is the model's reading (log
entry 5), over the model's own queue (log entry 1). -/
def Obligations.NothingHappensUntilAnOperationIsPresented : Prop :=
  ∀ s : State, s.requests = [] → step s = .next s

/-- The block never faults, and a step is refused in two cases only, the reserved request word and `ARM`
while armed; so whatever the contract of 60_exceptions.md R291 allows has a next state. The refusals are log
entry 11, that nothing faults is log entry 12. The contract also forbids a chunk over `CHUNK_MAX` and a `TMO`
from a timer that does not run; the model runs both, the first by its choice of log entry 7 (X11 offers a
refusal too), the second because the block does not measure time (X10, log entry 17). -/
def Obligations.StepStopsOnlyOnForbiddenRequests : Prop :=
  ∀ s : State,
    ((∃ t, step s = .next t) ∨
     ∃ r rs, s.requests = r :: rs ∧
       ((decode r = .reserved ∧ step s = .refused .reservedRequestWord) ∨
        (decode r = .arm ∧ s.armed = true ∧ step s = .refused .armWhileArmed))) ∧
    ∀ r rs, s.requests = r :: rs → allowed s r = true → ∃ t, step s = .next t

/-- The reserved request word has no step (R84, X1). -/
def Obligations.ReservedRequestWordIsRefused : Prop :=
  ∀ s : State, exec .reserved s = .refused .reservedRequestWord

/-- The values after power-on: those of 10_state.md section 7, with the table and `CFG` at their constant
contents and the checksum seeded at 0 (the reset values of the reassembler are the spec's decision D28; that
nothing is presented, delivered or subscribed is the model's, log entries 1, 2, 4; that the device's `CFG` is
well-formed is X3, log entry 3). -/
def Obligations.PowerOnValues : Prop :=
  State.reset.raState = .idle ∧ State.reset.raDeclared = -1 ∧ State.reset.raChunks = [] ∧
  State.reset.raLastTime = none ∧ State.reset.timerRunning = false ∧
  State.reset.cfg = Config.deviceCfg ∧ State.reset.cfg.wf = true ∧
  crcTable.length = 256 ∧ crc8 [] = 0x00 ∧
  State.reset.requests = [] ∧ State.reset.out = [] ∧ State.reset.subscribed = false

/-- The check of a `CFG` holds exactly of the records that meet the constraints of 92_eei_decisions.md section
2 and X4 (as log entry 10 reads them), and power-on with a given `CFG` is refused exactly when it breaks one of
them (93_implementation_defined.md X3), and is otherwise the reset state holding it (log entry 14). -/
def Obligations.PowerOnRefusesIllFormedCfg : Prop :=
  ∀ c : Cfg, (c.wf = true ↔ CfgConstraints c) ∧
    (c.wf = true → powerOn c = .next { State.reset with cfg := c }) ∧
    (c.wf = false → powerOn c = .refused .illFormedCfg)

/-- No operation writes `CFG`, takes back an output or reorders what is presented: the constants are
immutable (20_memory.md R66) and an operation only adds to what left the block. -/
def Obligations.ConstantsAndPastOutputsNeverChange : Prop :=
  ∀ (i : Instr) (s t : State), exec i s = .next t →
    t.cfg = s.cfg ∧ t.requests = s.requests ∧ s.out <+: t.out

/-- The operations of U1, U2 and U3 neither read nor write the reassembler: each delivers one result that
depends on the operation and `CFG` only, and leaves everything else as it was (70_reset_and_hazards.md R317,
42_response_parser_primitives.md R177, 41_command_encoder.md R148). -/
def Obligations.PureOperationsIgnoreTheReassembler : Prop :=
  ∀ (i : Instr) (s u : State), pureOp i = true → s.cfg = u.cfg →
    ∃ o : Output, exec i s = .next { s with out := s.out ++ [o] } ∧
      exec i u = .next { u with out := u.out ++ [o] } ∧ ∀ e : Event, o ≠ .event e

/-! ## U1, the CRC8 Engine -/

/-- `CRC_TABLE` has 256 entries, entry `i` is the bit step applied 8 times to `i` (R121), with the spec's
worked entries. -/
def Obligations.TableEntryIsEightBitSteps : Prop :=
  crcTable.length = 256 ∧
  (∀ i : Byte, tableRead i = step1 (step1 (step1 (step1 (step1 (step1 (step1 (step1 i)))))))) ∧
  tableRead 0x00 = 0x00 ∧ tableRead 0x01 = 0x07 ∧ tableRead 0x80 = 0x89

/-- `CRC8` delivers the table-driven checksum as a bare byte and changes nothing else: seeded at 0, one
look-up per byte in index order, a result for every sequence of any length (R123, for the operation R124). -/
def Obligations.Crc8DeliversTheTableDrivenChecksum : Prop :=
  ∀ (s : State) (b : Bytes) (x : Byte) (n : Nat),
    exec (.crc8 b) s = .next { s with out := s.out ++ [.crc (crc8 b)] } ∧
    crc8 [] = 0x00 ∧
    crc8 (b ++ [x]) = tableRead (crc8 b ^^^ x) ∧
    crc8 [x] = tableRead x ∧
    crc8 (List.replicate n 0x00) = 0x00 ∧
    crc8 [0x01, 0x02] = 0x1B ∧ crc8 [0x02, 0x01] = 0x2D ∧
    crc8 [0x31, 0x32, 0x33, 0x34, 0x35, 0x36, 0x37, 0x38, 0x39] = 0xF4

/-- The table is only a precomputation of the 8 bit steps: the checksum is the bitwise division, most
significant bit first (40_crc8.md section 3, item 1). -/
def Obligations.ChecksumIsTheBitwiseDivision : Prop :=
  ∀ b : Bytes, crc8 b = b.foldl (fun c x => step1 (step1 (step1 (step1 (step1 (step1 (step1 (step1
    (c ^^^ x))))))))) 0

/-- Residue: a sequence followed by its own checksum has checksum 0, and by any other byte has not, so the
parser's test is equivalent to a zero checksum over the whole frame (40_crc8.md section 3, item 2). -/
def Obligations.ResidueIsZeroExactlyForTheChecksum : Prop :=
  ∀ (b : Bytes) (x : Byte), crc8 (b ++ [x]) = 0x00 ↔ x = crc8 b

/-- Linearity, and the invisibility of leading zeros (40_crc8.md section 3, items 3 and 4). -/
def Obligations.ChecksumIsLinear : Prop :=
  (∀ a b : Bytes, a.length = b.length → crc8 (List.zipWith (· ^^^ ·) a b) = crc8 a ^^^ crc8 b) ∧
  ∀ (n : Nat) (b : Bytes), crc8 (List.replicate n 0x00 ++ b) = crc8 b

/-! ## U2, the command frame encoder -/

/-- `ENC` with a code of the closed set delivers the command's template followed by its checksum, and
changes nothing else (R141, for each command R142 to R146). -/
def Obligations.EncDeliversTemplateAndChecksum : Prop :=
  ∀ s : State,
    exec .encDataMeasurements s = .next { s with out := s.out ++ [.enc (.ok
      (s.cfg.templates.dataMeasurements ++ [crc8 s.cfg.templates.dataMeasurements]))] } ∧
    exec .encUsageSummary s = .next { s with out := s.out ++ [.enc (.ok
      (s.cfg.templates.usageSummary ++ [crc8 s.cfg.templates.usageSummary]))] } ∧
    exec .encProductionData s = .next { s with out := s.out ++ [.enc (.ok
      (s.cfg.templates.productionData ++ [crc8 s.cfg.templates.productionData]))] } ∧
    exec .encMosfetOn s = .next { s with out := s.out ++ [.enc (.ok
      (s.cfg.templates.mosfetOn ++ [crc8 s.cfg.templates.mosfetOn]))] } ∧
    exec .encMosfetOff s = .next { s with out := s.out ++ [.enc (.ok
      (s.cfg.templates.mosfetOff ++ [crc8 s.cfg.templates.mosfetOff]))] }

/-- `ENC` with code 5, 6 or 7, each with its request word, delivers `Err(InvalidCommandType)`, no bytes, and
changes nothing else (41_command_encoder.md section 3; the codes are the spec's decision D2, D3). -/
def Obligations.EncInvalidCodeDeliversAnError : Prop :=
  ∀ (s : State) (b : Bytes) (t : Option Nat),
    decode ⟨0b001101, b, t⟩ = .encInvalid5 ∧ decode ⟨0b001110, b, t⟩ = .encInvalid6 ∧
    decode ⟨0b001111, b, t⟩ = .encInvalid7 ∧
    exec .encInvalid5 s = .next { s with out := s.out ++ [.enc (.err .invalidCommandType)] } ∧
    exec .encInvalid6 s = .next { s with out := s.out ++ [.enc (.err .invalidCommandType)] } ∧
    exec .encInvalid7 s = .next { s with out := s.out ++ [.enc (.err .invalidCommandType)] }

/-- Every command frame passes the check that the parser applies to responses: it has a byte at least, its
last byte is the checksum of the bytes before it, and its own checksum is 0 (41_command_encoder.md section 4,
items 1 and 3). -/
def Obligations.CommandFramePassesTheParserCheck : Prop :=
  ∀ (i : Instr) (s : State) (k : Bytes),
    exec i s = .next { s with out := s.out ++ [.enc (.ok k)] } →
    1 ≤ k.length ∧ crc8 k = 0x00 ∧ k.getLast? = some (crc8 k.dropLast) ∧
    (2 ≤ k.length → validateFrame k = .ok k.dropLast)

/-! ## U3, the response frame parser: frames and records -/

/-- Fewer than 2 bytes fail with `ResponseTooShort`, for every command code, valid or not (R161). -/
def Obligations.ShortFrameIsRejected : Prop :=
  ∀ (s : State) (raw : Bytes) (i : Instr), raw.length < 2 → i ∈ parseForms raw →
    exec i s = .next { s with out := s.out ++ [.parse (.err .responseTooShort)] }

/-- The last byte is split off as the checksum: if it differs from the checksum of the bytes before it,
every `PARSE` form fails with `ChecksumMismatch`, and otherwise the remainder is the payload; it is the right
one exactly when the checksum of the whole frame is 0 (R162). -/
def Obligations.ChecksumTestSplitsOffTheLastByte : Prop :=
  ∀ (s : State) (p : Bytes) (x : Byte), p ≠ [] →
    (crc8 p ≠ x → ∀ i ∈ parseForms (p ++ [x]),
      exec i s = .next { s with out := s.out ++ [.parse (.err .checksumMismatch)] }) ∧
    (crc8 p = x → validateFrame (p ++ [x]) = .ok p) ∧
    (crc8 p = x ↔ crc8 (p ++ [x]) = 0x00)

/-- Corrupting any single byte of a checksum-appended frame, the checksum included, makes every `PARSE` form
fail with `ChecksumMismatch` (40_crc8.md section 3, item 5; 42_response_parser_primitives.md section 8). -/
def Obligations.AnySingleByteErrorIsRejected : Prop :=
  ∀ (s : State) (p : Bytes) (k : Nat) (v : Byte) (i : Instr), p ≠ [] → k < p.length + 1 →
    (p ++ [crc8 p])[k]? ≠ some v → i ∈ parseForms ((p ++ [crc8 p]).set k v) →
    exec i s = .next { s with out := s.out ++ [.parse (.err .checksumMismatch)] }

/-- When the frame's checksum is right and every descriptor of the layout reads, `PARSE` delivers the record
of its type with every field of the layout, in layout order, and changes nothing else; PRODUCTION_DATA needs
a payload of 32 bytes at least (43_response_parser_records.md R200, R207, R209, R212). -/
def Obligations.ParseDeliversTheRecord : Prop :=
  ∀ (s : State) (p : Bytes) (vs : List Value), p ≠ [] →
    (s.cfg.layoutDm.map (readDesc p) = vs.map Res.ok →
      exec (.parseDataMeasurements (p ++ [crc8 p])) s = .next { s with out := s.out ++
        [.parse (.ok ⟨.dataMeasurements, (s.cfg.layoutDm.map Desc.name).zip vs⟩)] }) ∧
    (s.cfg.layoutUs.map (readDesc p) = vs.map Res.ok →
      exec (.parseUsageSummary (p ++ [crc8 p])) s = .next { s with out := s.out ++
        [.parse (.ok ⟨.usageSummary, (s.cfg.layoutUs.map Desc.name).zip vs⟩)] }) ∧
    (32 ≤ p.length → s.cfg.layoutPd.map (readDesc p) = vs.map Res.ok →
      exec (.parseProductionData (p ++ [crc8 p])) s = .next { s with out := s.out ++
        [.parse (.ok ⟨.productionData, (s.cfg.layoutPd.map Desc.name).zip vs⟩)] })

/-- The first step that fails ends a `PARSE` with its error and nothing else, be it a step of the frame
validation or a descriptor after others that read; a success delivers every field of the layout (R176). -/
def Obligations.ParseStopsAtTheFirstFailure : Prop :=
  ∀ (s : State) (raw : Bytes), ∀ f ∈ recordForms s.cfg,
    (∀ k, validateFrame raw = .err k →
      exec (f.op raw) s = .next { s with out := s.out ++ [.parse (.err k)] }) ∧
    (∀ p pre d post (vs : List Value) k, validateFrame raw = .ok p → f.minLen ≤ p.length →
      f.layout = pre ++ d :: post → pre.map (readDesc p) = vs.map Res.ok →
      readDesc p d = .err k →
      exec (f.op raw) s = .next { s with out := s.out ++ [.parse (.err k)] }) ∧
    (∀ rec, exec (f.op raw) s = .next { s with out := s.out ++ [.parse (.ok rec)] } →
      rec.type = f.type ∧ rec.fields.map Prod.fst = f.layout.map Desc.name)

/-- A PRODUCTION_DATA payload under 32 bytes fails with `ResponseTooShort` after the checksum test (the error
kind and the reading of buffer length are the spec's decisions D13, D14). -/
def Obligations.ProductionDataNeeds32PayloadBytes : Prop :=
  ∀ (s : State) (p : Bytes), p ≠ [] → p.length < 32 →
    exec (.parseProductionData (p ++ [crc8 p])) s =
      .next { s with out := s.out ++ [.parse (.err .responseTooShort)] }

/-- `PARSE` with a code that has no record type validates the frame and then delivers
`Err(InvalidCommandType)` (the spec's decision D15; log entry 8). -/
def Obligations.ParseWithoutARecordTypeDeliversAnError : Prop :=
  ∀ (s : State) (p : Bytes), p ≠ [] →
    exec (.parseMosfetOn (p ++ [crc8 p])) s =
      .next { s with out := s.out ++ [.parse (.err .invalidCommandType)] } ∧
    exec (.parseMosfetOff (p ++ [crc8 p])) s =
      .next { s with out := s.out ++ [.parse (.err .invalidCommandType)] } ∧
    exec (.parseInvalid5 (p ++ [crc8 p])) s =
      .next { s with out := s.out ++ [.parse (.err .invalidCommandType)] } ∧
    exec (.parseInvalid6 (p ++ [crc8 p])) s =
      .next { s with out := s.out ++ [.parse (.err .invalidCommandType)] } ∧
    exec (.parseInvalid7 (p ++ [crc8 p])) s =
      .next { s with out := s.out ++ [.parse (.err .invalidCommandType)] }

/-- The length byte of a frame has no influence on the measurement record or its error: two frames that
differ in byte 0 only, each with its own right checksum, parse alike (the spec's decision D29). -/
def Obligations.LengthByteDoesNotInfluenceTheRecord : Prop :=
  ∀ (s : State) (x y : Byte) (q : Bytes) (r : Res Record), s.cfg.wf = true →
    exec (.parseDataMeasurements ((x :: q) ++ [crc8 (x :: q)])) s =
      .next { s with out := s.out ++ [.parse r] } →
    exec (.parseDataMeasurements ((y :: q) ++ [crc8 (y :: q)])) s =
      .next { s with out := s.out ++ [.parse r] }

/-- Which error kinds each `PARSE` form can deliver under a well-formed `CFG` (60_exceptions.md section 1,
the second table). -/
def Obligations.ParseErrorKindsByForm : Prop :=
  ∀ (s : State) (raw : Bytes) (k : ErrKind), s.cfg.wf = true →
    (exec (.parseDataMeasurements raw) s = .next { s with out := s.out ++ [.parse (.err k)] } →
      k ∈ [ErrKind.responseTooShort, .checksumMismatch, .outOfBoundsRead, .invalidDateValue,
        .invalidTimeValue]) ∧
    (exec (.parseUsageSummary raw) s = .next { s with out := s.out ++ [.parse (.err k)] } →
      k ∈ [ErrKind.responseTooShort, .checksumMismatch, .outOfBoundsRead, .invalidDateValue]) ∧
    (exec (.parseProductionData raw) s = .next { s with out := s.out ++ [.parse (.err k)] } →
      k ∈ [ErrKind.responseTooShort, .checksumMismatch, .outOfBoundsRead, .invalidDateValue,
        .nonAsciiData]) ∧
    ∀ i ∈ noRecordForms raw, exec i s = .next { s with out := s.out ++ [.parse (.err k)] } →
      k ∈ [ErrKind.responseTooShort, .checksumMismatch, .invalidCommandType]

/-- A delivered measurement record holds every field of the table of 43_response_parser_records.md section
1 (the second alarm bank, which a layout may leave out, apart), each with a value of its kind, in that
kind's range and with its scale; and its mosfet-on flag is flag `MOSFET_ON_BIT` of its status field (R206; the
kinds the spec inferred are its decision D16; log entry 10). -/
def Obligations.MeasurementRecordHoldsItsFields : Prop :=
  ∀ (s : State) (raw : Bytes) (rec : Record), s.cfg.wf = true →
    exec (.parseDataMeasurements raw) s = .next { s with out := s.out ++ [.parse (.ok rec)] } →
    rec.type = .dataMeasurements ∧
    (∀ f ∈ (dmFields s.cfg).dropLast, ∃ v, rec.lookup f.1 = some v ∧ v.ofKind f.2.1 f.2.2 = true) ∧
    ∃ fs v, rec.lookup .status = some (.flags fs) ∧ fs[s.cfg.mosfetOnBit.val]? = some v ∧
      mosfetOn s.cfg rec = some v

/-! ## U3, the response frame parser: field primitives -/

/-- `MemRead`: in bounds it yields exactly the n bytes from the offset on, and a read that fits only in part
fails as a whole (R164). -/
def Obligations.MemReadIsBoundsChecked : Prop :=
  ∀ (p : Bytes) (off n : Nat),
    (off + n ≤ p.length → ∃ b, memRead p off n = .ok b ∧ b.length = n ∧
      ∀ k, k < n → b[k]? = p[off + k]?) ∧
    (p.length < off + n → memRead p off n = .err .outOfBoundsRead)

/-- `U16` and `S16`: two bytes, the first one the more significant, unsigned or two's complement
(42_response_parser_primitives.md section 3; two's complement is the spec's decision D11). -/
def Obligations.WordReadsAreBigEndian : Prop :=
  ∀ (p : Bytes) (off : Nat) (hi lo : Byte) (name : FieldName) (sc : Scale),
    (p[off]? = some hi → p[off + 1]? = some lo →
      readDesc p (.u16 name off sc) = .ok (.num (hi.toNat * 256 + lo.toNat : Nat) sc) ∧
      readDesc p (.s16 name off sc) = .ok (.num
        (if hi.toNat * 256 + lo.toNat < 32768 then ((hi.toNat * 256 + lo.toNat : Nat) : Int)
         else (hi.toNat * 256 + lo.toNat : Nat) - 65536) sc)) ∧
    (p.length < off + 2 →
      readDesc p (.u16 name off sc) = .err .outOfBoundsRead ∧
      readDesc p (.s16 name off sc) = .err .outOfBoundsRead)

/-- `U32` and `S32`: two words combined as unsigned, the most significant one at its own offset, and the sign
taken once from bit 31 of the result (42_response_parser_primitives.md section 3; the offsets, the unsigned words
and two's complement are the spec's decisions D10, D11). -/
def Obligations.CompositesJoinTwoUnsignedWords : Prop :=
  ∀ (p : Bytes) (m l : Nat) (b3 b2 b1 b0 : Byte) (v : Nat) (name : FieldName) (sc : Scale),
    v = ((b3.toNat * 256 + b2.toNat) * 256 + b1.toNat) * 256 + b0.toNat →
    (p[m]? = some b3 → p[m + 1]? = some b2 → p[l]? = some b1 → p[l + 1]? = some b0 →
      readDesc p (.u32 name m l sc) = .ok (.num v sc) ∧
      readDesc p (.s32 name m l sc) =
        .ok (.num (if v < 2147483648 then (v : Int) else v - 4294967296) sc)) ∧
    (p.length < m + 2 ∨ p.length < l + 2 →
      readDesc p (.u32 name m l sc) = .err .outOfBoundsRead ∧
      readDesc p (.s32 name m l sc) = .err .outOfBoundsRead)

/-- `FLAGS16`: all 16 bits of the word are delivered, `flag[i]` is bit i, and no word is invalid
(42_response_parser_primitives.md section 4; the numbering of the bits is the spec's decision D8). -/
def Obligations.FlagWordIsUnpackedBitByBit : Prop :=
  ∀ (p : Bytes) (off : Nat) (hi lo : Byte) (name : FieldName),
    (p[off]? = some hi → p[off + 1]? = some lo →
      ∃ fs, readDesc p (.flags16 name off) = .ok (.flags fs) ∧ fs.length = 16 ∧
        ∀ i, i < 16 → fs[i]? = some (decide ((hi.toNat * 256 + lo.toNat) / 2 ^ i % 2 = 1))) ∧
    (p.length < off + 2 → readDesc p (.flags16 name off) = .err .outOfBoundsRead)

/-- `DATE`: year offset, month and day from the top of the word; a month outside 1..12 or a day outside 1..31
fails, and every other word is a date from 1980 on (the places of the sub-fields are the spec's decision
D9); a word that does not fit in the payload is a bounds error. -/
def Obligations.PackedDateIsValidated : Prop :=
  ∀ (p : Bytes) (off : Nat) (hi lo : Byte) (yo mo dy : Nat) (name : FieldName),
    (p[off]? = some hi → p[off + 1]? = some lo → yo < 128 → mo < 16 → dy < 32 →
      hi.toNat * 256 + lo.toNat = yo * 512 + mo * 32 + dy →
      ((1 ≤ mo ∧ mo ≤ 12) ∧ (1 ≤ dy ∧ dy ≤ 31) →
        readDesc p (.date name off) = .ok (.date ⟨1980 + yo, mo, dy⟩)) ∧
      (¬ ((1 ≤ mo ∧ mo ≤ 12) ∧ (1 ≤ dy ∧ dy ≤ 31)) →
        readDesc p (.date name off) = .err .invalidDateValue)) ∧
    (p.length < off + 2 → readDesc p (.date name off) = .err .outOfBoundsRead)

/-- `TIME`: hour, minute and 2-second units from the top of the word; an hour over 23, a minute over 59 or a
count over 29 fails, and every other word is a time whose second is twice the count (the places of the
sub-fields are the spec's decision D9); a word that does not fit in the payload is a bounds error. -/
def Obligations.PackedTimeIsValidated : Prop :=
  ∀ (p : Bytes) (off : Nat) (hi lo : Byte) (h m x : Nat) (name : FieldName),
    (p[off]? = some hi → p[off + 1]? = some lo → h < 32 → m < 64 → x < 32 →
      hi.toNat * 256 + lo.toNat = h * 2048 + m * 32 + x →
      (h ≤ 23 ∧ m ≤ 59 ∧ x ≤ 29 → readDesc p (.time name off) = .ok (.time ⟨h, m, x * 2⟩)) ∧
      (¬ (h ≤ 23 ∧ m ≤ 59 ∧ x ≤ 29) → readDesc p (.time name off) = .err .invalidTimeValue)) ∧
    (p.length < off + 2 → readDesc p (.time name off) = .err .outOfBoundsRead)

/-- `ASCII`: the bytes themselves when each is in 0x20..0x7E, an error when any is not, whatever stands
around it, and a bounds error before either (R175). -/
def Obligations.AsciiRangeIsStrict : Prop :=
  ∀ (p : Bytes) (off n : Nat) (name : FieldName),
    (p.length < off + n → readDesc p (.ascii name off n) = .err .outOfBoundsRead) ∧
    (off + n ≤ p.length →
      ((∀ b ∈ (p.drop off).take n, 0x20 ≤ b.toNat ∧ b.toNat ≤ 0x7E) →
        readDesc p (.ascii name off n) = .ok (.text ((p.drop off).take n))) ∧
      ((∃ b ∈ (p.drop off).take n, b.toNat < 0x20 ∨ 0x7E < b.toNat) →
        readDesc p (.ascii name off n) = .err .nonAsciiData))

/-! ## U4, the chunk reassembler -/

/-- `ARM` when not armed: a fresh request with no memory of the old one, and one `TIMER_START` of 10 s (the
spec's decisions D17, D22; the subscription and timer bits are the model's view of R35, log entry 4). -/
def Obligations.ArmStartsAFreshRequest : Prop :=
  ∀ s : State, s.raState = .idle ∨ s.raState = .complete ∨ s.raState = .timedOut →
    exec .arm s = .next { s with
      raState := .awaitingFirstChunk, raDeclared := -1, raChunks := [], raLastTime := none,
      subscribed := true, timerRunning := true, out := s.out ++ [.event (.timerStart 10)] }

/-- `ARM` while armed has no step (44_chunk_reassembler.md R232, the spec's decision D21, X2). -/
def Obligations.ArmWhileArmedIsRefused : Prop :=
  ∀ s : State, s.raState = .awaitingFirstChunk ∨ s.raState = .accumulating →
    exec .arm s = .refused .armWhileArmed

/-- `NTF`, case by case as its rule lists them: ignored when not armed, when empty, when an echo; the first
data chunk sets the declared length and becomes the buffer; a later one is appended; and the append that
reaches the declared length delivers the whole concatenation, untrimmed, with one `FRAME` and one `UNSUB`
(44_chunk_reassembler.md section 3; that the filters act in both armed states, that completion is noticed in
the step of the append, and that nothing is trimmed are the spec's decisions D19, D20, D18). `UNSUB` clears the
model's bit for the subscription (R33, R239; log entry 4). -/
def Obligations.NotificationFollowsItsRules : Prop :=
  ∀ (s : State) (chunk : Bytes) (tm : Option Nat),
    (s.raState ≠ .awaitingFirstChunk → s.raState ≠ .accumulating →
      exec (.ntf chunk tm) s = .next s) ∧
    (chunk = [] ∨ chunk = s.cfg.echoOn ∨ chunk = s.cfg.echoOff → exec (.ntf chunk tm) s = .next s) ∧
    (chunk ≠ [] → chunk ≠ s.cfg.echoOn → chunk ≠ s.cfg.echoOff →
      (s.raState = .awaitingFirstChunk → chunk.length < (chunk.headD 0).toNat →
        exec (.ntf chunk tm) s = .next { s with
          raState := .accumulating, raDeclared := (chunk.headD 0).toNat, raChunks := [chunk],
          raLastTime := tm }) ∧
      (s.raState = .awaitingFirstChunk → (chunk.headD 0).toNat ≤ chunk.length →
        exec (.ntf chunk tm) s = .next { s with
          raState := .complete, raDeclared := (chunk.headD 0).toNat, raChunks := [chunk],
          raLastTime := tm, subscribed := false,
          out := s.out ++ [.event (.frame chunk), .event .unsub] }) ∧
      (s.raState = .accumulating → (s.raCount + chunk.length : Nat) < s.raDeclared →
        exec (.ntf chunk tm) s = .next { s with
          raChunks := s.raChunks ++ [chunk], raLastTime := tm }) ∧
      (s.raState = .accumulating → s.raDeclared ≤ (s.raCount + chunk.length : Nat) →
        exec (.ntf chunk tm) s = .next { s with
          raState := .complete, raChunks := s.raChunks ++ [chunk], raLastTime := tm, subscribed := false,
          out := s.out ++ [.event (.frame (s.raChunks ++ [chunk]).flatten), .event .unsub] }))

/-- `TMO` while armed ends the request: `TIMED_OUT`, one `TIMEOUT(ResponseTimeout)` and one `UNSUB`, the
buffer and the declared length kept (44_chunk_reassembler.md section 4, the spec's decision D22); when not
armed it changes nothing of the block. The two environment bits are the model's (log entry 4). -/
def Obligations.TimeoutEndsAnArmedRequestOnly : Prop :=
  ∀ s : State,
    (s.raState = .awaitingFirstChunk ∨ s.raState = .accumulating →
      exec .tmo s = .next { s with
        raState := .timedOut, timerRunning := false, subscribed := false,
        out := s.out ++ [.event (.timeout .responseTimeout), .event .unsub] }) ∧
    (s.raState = .idle ∨ s.raState = .complete ∨ s.raState = .timedOut →
      exec .tmo s = .next { s with timerRunning := false })

/-- `RESET`, in every state: the reassembler to its reset values, silently (70_reset_and_hazards.md section 1,
the spec's decision D28; that the timer is not running is 10_state.md section 7, log entry 4). -/
def Obligations.ResetIsSilentAndTotal : Prop :=
  ∀ s : State, exec .reset s = .next { s with
    raState := .idle, raDeclared := -1, raChunks := [], raLastTime := none, timerRunning := false }

/-- The transition table of `ra_state`: which operation can take it from where to where, and nothing else
can (44_chunk_reassembler.md section 5; `IDLE` and the `RESET` column are the spec's decisions D17, D28). -/
def Obligations.OnlyTheTabledTransitions : Prop :=
  ∀ (i : Instr) (s t : State), exec i s = .next t → t.raState ≠ s.raState →
    (i = .arm ∧ s.armed = false ∧ t.raState = .awaitingFirstChunk) ∨
    (∃ chunk tm, i = .ntf chunk tm ∧ isDataChunk s.cfg chunk = true ∧
      ((s.raState = .awaitingFirstChunk ∧ t.raState = .accumulating) ∨
       (s.raState = .awaitingFirstChunk ∧ t.raState = .complete) ∨
       (s.raState = .accumulating ∧ t.raState = .complete))) ∨
    (i = .tmo ∧ s.armed = true ∧ t.raState = .timedOut) ∨
    (i = .reset ∧ t.raState = .idle)

/-- A completing chunk and a time-out that are ready together: either order is a behaviour, the first one
decides the request and the second changes nothing of it (44_chunk_reassembler.md section 4, the spec's
decision D23). -/
def Obligations.EitherOrderOfChunkAndTimeout : Prop :=
  ∀ (s t : State) (chunk : Bytes) (tm : Option Nat), s.armed = true →
    exec (.ntf chunk tm) s = .next t → t.raState = .complete →
    (∃ u, execAll [.ntf chunk tm, .tmo] s = .next u ∧ u.raState = .complete ∧
      u.raChunks = t.raChunks ∧ u.out = t.out) ∧
    (∃ v, execAll [.tmo, .ntf chunk tm] s = .next v ∧ v.raState = .timedOut ∧
      v.raChunks = s.raChunks ∧
      v.out = s.out ++ [.event (.timeout .responseTimeout), .event .unsub])

/-- Reassembly completeness: a stream of notifications whose data chunks first reach the declared length
with the last of them completes exactly once, with exactly those chunks concatenated in order, and whatever
is notified after that is ignored (R249). -/
def Obligations.ReassemblyCompletesExactlyOnce : Prop :=
  ∀ (s : State) (ns es : List (Bytes × Option Nat)) (pre : List Bytes) (last : Bytes),
    s.raState = .awaitingFirstChunk →
    dataChunks s.cfg ns = pre ++ [last] →
    (pre ≠ [] → pre.flatten.length < declaredLength (pre ++ [last])) →
    declaredLength (pre ++ [last]) ≤ (pre ++ [last]).flatten.length →
    ∃ t, execAll (notifications (ns ++ es)) s = .next t ∧ t.raState = .complete ∧
      t.raChunks = pre ++ [last] ∧ t.raDeclared = declaredLength (pre ++ [last]) ∧
      t.out = s.out ++ [.event (.frame (pre ++ [last]).flatten), .event .unsub]

/-- Reassembly timeout: if the declared length is never reached before the time-out, the request fails with
`ResponseTimeout` and an `UNSUB`, the subscription is gone, and neither a later notification nor a later
time-out changes anything observable (R250; the bit that is the subscription is the model's, log entry 4). -/
def Obligations.ReassemblyTimesOutAndStaysSo : Prop :=
  ∀ (s : State) (ns es : List (Bytes × Option Nat)),
    s.raState = .awaitingFirstChunk → s.raChunks = [] →
    (dataChunks s.cfg ns ≠ [] →
      (dataChunks s.cfg ns).flatten.length < declaredLength (dataChunks s.cfg ns)) →
    ∃ t, execAll (notifications ns ++ .tmo :: notifications es ++ [.tmo]) s = .next t ∧
      t.raState = .timedOut ∧ t.raChunks = dataChunks s.cfg ns ∧ t.subscribed = false ∧
      t.out = s.out ++ [.event (.timeout .responseTimeout), .event .unsub]

/-- However a frame whose byte 0 is its own length is cut into data chunks, `ARM` and the chunks deliver
exactly that frame, once (20_memory.md sections 5 and 6, 44_chunk_reassembler.md sections 3 and 6). -/
def Obligations.ChunkingDoesNotChangeTheFrame : Prop :=
  ∀ (s : State) (f : Bytes) (ns : List (Bytes × Option Nat)),
    s.armed = false → f ≠ [] → f.length = (f.headD 0).toNat →
    (∀ n ∈ ns, isDataChunk s.cfg n.1 = true) → (ns.map Prod.fst).flatten = f →
    ∃ t, execAll (.arm :: notifications ns) s = .next t ∧ t.raState = .complete ∧
      t.out = s.out ++ [.event (.timerStart 10), .event (.frame f), .event .unsub]

/-! ## Invariants -/

/-- The invariants of 10_state.md section 8 are kept by every step, from every state that has them. -/
def Obligations.StepKeepsTheReassemblerInvariant : Prop :=
  ∀ s t : State, ReassemblerInv s → step s = .next t → ReassemblerInv t

/-- Between two `ARM` operations at most one `FRAME` or `TIMEOUT` leaves the block, and never both; the frame
is the whole accumulation (44_chunk_reassembler.md section 3, "Exactly once"): kept by every step. -/
def Obligations.StepKeepsExactlyOnceDelivery : Prop :=
  ∀ s t : State, DeliveryInv s → step s = .next t → DeliveryInv t

/-- The capacity bound of 10_state.md section 4: under the environment's contract the buffer never holds more
than `254 + CHUNK_MAX` bytes. -/
def Obligations.StepKeepsTheCapacityBound : Prop :=
  ∀ s t : State, ReassemblerInv s → CapacityInv s →
    (∀ r rs, s.requests = r :: rs → allowed s r = true) → step s = .next t → CapacityInv t

/-- While armed the subscription exists and the timer runs, so that every armed request can end
(60_exceptions.md section 7; the two bits are the model's view of R35, log entry 4): kept by every step. -/
def Obligations.StepKeepsTheRequestAlive : Prop :=
  ∀ s t : State, LiveRequestInv s → step s = .next t → LiveRequestInv t

/-- The four invariants hold after power-on. -/
def Obligations.InvariantsHoldAfterPowerOn : Prop :=
  ReassemblerInv State.reset ∧ DeliveryInv State.reset ∧ CapacityInv State.reset ∧
  LiveRequestInv State.reset

/-- A well-formed `CFG` stays one: as the record of the reset state is well-formed, the constants that the spec
gives and the constraints of X3 hold in every state that a run reaches (20_memory.md section 6, log entry 3). -/
def Obligations.StepKeepsTheConfigurationWellFormed : Prop :=
  ∀ s t : State, s.cfg.wf = true → step s = .next t → t.cfg.wf = true ∧ CfgConstraints t.cfg
end

