-- ==== Sys2Proof/Laws/Crc.lean ====
section
/-! SUPPORT. The lookup table is the eight rounds of the bit step, linear and injective; the checksum over a
byte more, and over a concatenation (spec 40_crc8.md R121 to R125). -/

namespace Sys2Proof.Machine

theorem crcTable_length : crcTable.length = 256 := by
  have low : crcTableLow.length = 128 := rfl
  have high : crcTableHigh.length = 128 := rfl
  rw [crcTable, List.length_append, low, high]

/-- The printed table is the one that R121 generates. -/
theorem tableRead_eq_rounds8 : ∀ i : Byte, tableRead i = rounds8 i := by decide

theorem step1_xor (a b : Byte) : step1 (a ^^^ b) = step1 a ^^^ step1 b := by
  have key : ∀ c : Byte, step1 c = (c <<< 1) ^^^ (if c.getLsbD 7 then poly else 0) := by
    intro c
    unfold step1
    split <;> simp
  rw [key a, key b, key (a ^^^ b), BitVec.getLsbD_xor, BitVec.shiftLeft_xor_distrib]
  generalize a <<< 1 = x
  generalize b <<< 1 = y
  have hp : poly ^^^ poly = 0 := by decide
  cases a.getLsbD 7 <;> cases b.getLsbD 7 <;> simp
  · ac_rfl
  · ac_rfl
  · calc x ^^^ y = (x ^^^ y) ^^^ (poly ^^^ poly) := by rw [hp]; simp
      _ = x ^^^ poly ^^^ (y ^^^ poly) := by ac_rfl

theorem rounds8_xor (a b : Byte) : rounds8 (a ^^^ b) = rounds8 a ^^^ rounds8 b := by
  simp only [rounds8, step1_xor]

theorem tableRead_xor (a b : Byte) : tableRead (a ^^^ b) = tableRead a ^^^ tableRead b := by
  rw [tableRead_eq_rounds8, tableRead_eq_rounds8, tableRead_eq_rounds8, rounds8_xor]

theorem tableRead_zero : tableRead 0 = 0 := by decide

theorem tableRead_eq_zero : ∀ i : Byte, tableRead i = 0 → i = 0 := by decide

theorem byte_xor_eq_zero {a b : Byte} : a ^^^ b = 0 ↔ a = b := BitVec.xor_eq_zero_iff

/-- The table is a permutation of the bytes (R122). -/
theorem tableRead_injective {a b : Byte} (h : tableRead a = tableRead b) : a = b := by
  have h0 : tableRead (a ^^^ b) = 0 := by rw [tableRead_xor, h]; exact BitVec.xor_self
  exact byte_xor_eq_zero.mp (tableRead_eq_zero _ h0)

@[simp] theorem crc8From_nil (c : Byte) : crc8From c [] = c := rfl

@[simp] theorem crc8From_cons (c b : Byte) (bs : Bytes) :
    crc8From c (b :: bs) = crc8From (tableRead (c ^^^ b)) bs := rfl

theorem crc8From_append (c : Byte) (xs ys : Bytes) :
    crc8From c (xs ++ ys) = crc8From (crc8From c xs) ys := by
  simp [crc8From, List.foldl_append]

theorem crc8_nil : crc8 [] = 0 := rfl

theorem crc8_append_singleton (bs : Bytes) (b : Byte) :
    crc8 (bs ++ [b]) = tableRead (crc8 bs ^^^ b) := by
  simp [crc8, crc8From_append]

/-- A different accumulator gives a different checksum. -/
theorem crc8From_injective {c d : Byte} {bs : Bytes} (h : crc8From c bs = crc8From d bs) : c = d := by
  induction bs generalizing c d with
  | nil => exact h
  | cons b bs ih => exact BitVec.xor_left_inj b |>.mp (tableRead_injective (ih h))

end Sys2Proof.Machine
end

