-- ==== Sys2Proof/Laws/State.lean ====
section
/-! SUPPORT. One lemma per field per named update of the state, so that no proof unfolds a record update. -/

namespace Sys2Proof.Machine

variable (s : State)

@[simp] theorem State.deliver_requests (o : Output) : (s.deliver o).requests = s.requests := rfl
@[simp] theorem State.deliver_raState (o : Output) : (s.deliver o).raState = s.raState := rfl
@[simp] theorem State.deliver_raDeclared (o : Output) : (s.deliver o).raDeclared = s.raDeclared := rfl
@[simp] theorem State.deliver_raChunks (o : Output) : (s.deliver o).raChunks = s.raChunks := rfl
@[simp] theorem State.deliver_raLastTime (o : Output) : (s.deliver o).raLastTime = s.raLastTime := rfl
@[simp] theorem State.deliver_subscribed (o : Output) : (s.deliver o).subscribed = s.subscribed := rfl
@[simp] theorem State.deliver_timerRunning (o : Output) : (s.deliver o).timerRunning = s.timerRunning := rfl
@[simp] theorem State.deliver_cfg (o : Output) : (s.deliver o).cfg = s.cfg := rfl
@[simp] theorem State.deliver_out (o : Output) : (s.deliver o).out = s.out ++ [o] := rfl

@[simp] theorem State.setRaState_requests (v : RaState) : (s.setRaState v).requests = s.requests := rfl
@[simp] theorem State.setRaState_raState (v : RaState) : (s.setRaState v).raState = v := rfl
@[simp] theorem State.setRaState_raDeclared (v : RaState) : (s.setRaState v).raDeclared = s.raDeclared := rfl
@[simp] theorem State.setRaState_raChunks (v : RaState) : (s.setRaState v).raChunks = s.raChunks := rfl
@[simp] theorem State.setRaState_raLastTime (v : RaState) : (s.setRaState v).raLastTime = s.raLastTime := rfl
@[simp] theorem State.setRaState_subscribed (v : RaState) : (s.setRaState v).subscribed = s.subscribed := rfl
@[simp] theorem State.setRaState_timerRunning (v : RaState) : (s.setRaState v).timerRunning = s.timerRunning := rfl
@[simp] theorem State.setRaState_cfg (v : RaState) : (s.setRaState v).cfg = s.cfg := rfl
@[simp] theorem State.setRaState_out (v : RaState) : (s.setRaState v).out = s.out := rfl

@[simp] theorem State.clearRa_requests : (s.clearRa).requests = s.requests := rfl
@[simp] theorem State.clearRa_raState : (s.clearRa).raState = s.raState := rfl
@[simp] theorem State.clearRa_raDeclared : (s.clearRa).raDeclared = -1 := rfl
@[simp] theorem State.clearRa_raChunks : (s.clearRa).raChunks = [] := rfl
@[simp] theorem State.clearRa_raLastTime : (s.clearRa).raLastTime = none := rfl
@[simp] theorem State.clearRa_subscribed : (s.clearRa).subscribed = s.subscribed := rfl
@[simp] theorem State.clearRa_timerRunning : (s.clearRa).timerRunning = s.timerRunning := rfl
@[simp] theorem State.clearRa_cfg : (s.clearRa).cfg = s.cfg := rfl
@[simp] theorem State.clearRa_out : (s.clearRa).out = s.out := rfl

@[simp] theorem State.subscribe_requests : (s.subscribe).requests = s.requests := rfl
@[simp] theorem State.subscribe_raState : (s.subscribe).raState = s.raState := rfl
@[simp] theorem State.subscribe_raDeclared : (s.subscribe).raDeclared = s.raDeclared := rfl
@[simp] theorem State.subscribe_raChunks : (s.subscribe).raChunks = s.raChunks := rfl
@[simp] theorem State.subscribe_raLastTime : (s.subscribe).raLastTime = s.raLastTime := rfl
@[simp] theorem State.subscribe_subscribed : (s.subscribe).subscribed = true := rfl
@[simp] theorem State.subscribe_timerRunning : (s.subscribe).timerRunning = s.timerRunning := rfl
@[simp] theorem State.subscribe_cfg : (s.subscribe).cfg = s.cfg := rfl
@[simp] theorem State.subscribe_out : (s.subscribe).out = s.out := rfl

@[simp] theorem State.stopTimer_requests : (s.stopTimer).requests = s.requests := rfl
@[simp] theorem State.stopTimer_raState : (s.stopTimer).raState = s.raState := rfl
@[simp] theorem State.stopTimer_raDeclared : (s.stopTimer).raDeclared = s.raDeclared := rfl
@[simp] theorem State.stopTimer_raChunks : (s.stopTimer).raChunks = s.raChunks := rfl
@[simp] theorem State.stopTimer_raLastTime : (s.stopTimer).raLastTime = s.raLastTime := rfl
@[simp] theorem State.stopTimer_subscribed : (s.stopTimer).subscribed = s.subscribed := rfl
@[simp] theorem State.stopTimer_timerRunning : (s.stopTimer).timerRunning = false := rfl
@[simp] theorem State.stopTimer_cfg : (s.stopTimer).cfg = s.cfg := rfl
@[simp] theorem State.stopTimer_out : (s.stopTimer).out = s.out := rfl

@[simp] theorem State.storeFirstChunk_requests (c : Bytes) (t : Option Nat) : (s.storeFirstChunk c t).requests = s.requests := rfl
@[simp] theorem State.storeFirstChunk_raState (c : Bytes) (t : Option Nat) : (s.storeFirstChunk c t).raState = .accumulating := rfl
@[simp] theorem State.storeFirstChunk_raDeclared (c : Bytes) (t : Option Nat) : (s.storeFirstChunk c t).raDeclared = ((c.headD 0).toNat : Int) := rfl
@[simp] theorem State.storeFirstChunk_raChunks (c : Bytes) (t : Option Nat) : (s.storeFirstChunk c t).raChunks = [c] := rfl
@[simp] theorem State.storeFirstChunk_raLastTime (c : Bytes) (t : Option Nat) : (s.storeFirstChunk c t).raLastTime = t := rfl
@[simp] theorem State.storeFirstChunk_subscribed (c : Bytes) (t : Option Nat) : (s.storeFirstChunk c t).subscribed = s.subscribed := rfl
@[simp] theorem State.storeFirstChunk_timerRunning (c : Bytes) (t : Option Nat) : (s.storeFirstChunk c t).timerRunning = s.timerRunning := rfl
@[simp] theorem State.storeFirstChunk_cfg (c : Bytes) (t : Option Nat) : (s.storeFirstChunk c t).cfg = s.cfg := rfl
@[simp] theorem State.storeFirstChunk_out (c : Bytes) (t : Option Nat) : (s.storeFirstChunk c t).out = s.out := rfl

@[simp] theorem State.appendChunk_requests (c : Bytes) (t : Option Nat) : (s.appendChunk c t).requests = s.requests := rfl
@[simp] theorem State.appendChunk_raState (c : Bytes) (t : Option Nat) : (s.appendChunk c t).raState = s.raState := rfl
@[simp] theorem State.appendChunk_raDeclared (c : Bytes) (t : Option Nat) : (s.appendChunk c t).raDeclared = s.raDeclared := rfl
@[simp] theorem State.appendChunk_raChunks (c : Bytes) (t : Option Nat) : (s.appendChunk c t).raChunks = s.raChunks ++ [c] := rfl
@[simp] theorem State.appendChunk_raLastTime (c : Bytes) (t : Option Nat) : (s.appendChunk c t).raLastTime = t := rfl
@[simp] theorem State.appendChunk_subscribed (c : Bytes) (t : Option Nat) : (s.appendChunk c t).subscribed = s.subscribed := rfl
@[simp] theorem State.appendChunk_timerRunning (c : Bytes) (t : Option Nat) : (s.appendChunk c t).timerRunning = s.timerRunning := rfl
@[simp] theorem State.appendChunk_cfg (c : Bytes) (t : Option Nat) : (s.appendChunk c t).cfg = s.cfg := rfl
@[simp] theorem State.appendChunk_out (c : Bytes) (t : Option Nat) : (s.appendChunk c t).out = s.out := rfl

@[simp] theorem State.present_requests (r : Request) : (s.present r).requests = r :: s.requests := rfl
@[simp] theorem State.present_raState (r : Request) : (s.present r).raState = s.raState := rfl
@[simp] theorem State.present_raDeclared (r : Request) : (s.present r).raDeclared = s.raDeclared := rfl
@[simp] theorem State.present_raChunks (r : Request) : (s.present r).raChunks = s.raChunks := rfl
@[simp] theorem State.present_raLastTime (r : Request) : (s.present r).raLastTime = s.raLastTime := rfl
@[simp] theorem State.present_subscribed (r : Request) : (s.present r).subscribed = s.subscribed := rfl
@[simp] theorem State.present_timerRunning (r : Request) : (s.present r).timerRunning = s.timerRunning := rfl
@[simp] theorem State.present_cfg (r : Request) : (s.present r).cfg = s.cfg := rfl
@[simp] theorem State.present_out (r : Request) : (s.present r).out = s.out := rfl

@[simp] theorem State.emit_requests (e : Event) : (s.emit e).requests = s.requests := rfl
@[simp] theorem State.emit_raState (e : Event) : (s.emit e).raState = s.raState := rfl
@[simp] theorem State.emit_raDeclared (e : Event) : (s.emit e).raDeclared = s.raDeclared := rfl
@[simp] theorem State.emit_raChunks (e : Event) : (s.emit e).raChunks = s.raChunks := rfl
@[simp] theorem State.emit_raLastTime (e : Event) : (s.emit e).raLastTime = s.raLastTime := rfl
@[simp] theorem State.emit_cfg (e : Event) : (s.emit e).cfg = s.cfg := rfl
@[simp] theorem State.emit_out (e : Event) : (s.emit e).out = s.out ++ [.event e] := rfl

@[simp] theorem State.emit_timerStart_timerRunning (d : Nat) :
    (s.emit (.timerStart d)).timerRunning = true := rfl
@[simp] theorem State.emit_frame_timerRunning (b : Bytes) :
    (s.emit (.frame b)).timerRunning = s.timerRunning := rfl
@[simp] theorem State.emit_timeout_timerRunning (k : ErrKind) :
    (s.emit (.timeout k)).timerRunning = s.timerRunning := rfl
@[simp] theorem State.emit_unsub_timerRunning : (s.emit .unsub).timerRunning = s.timerRunning := rfl
@[simp] theorem State.emit_timerStart_subscribed (d : Nat) :
    (s.emit (.timerStart d)).subscribed = s.subscribed := rfl
@[simp] theorem State.emit_frame_subscribed (b : Bytes) :
    (s.emit (.frame b)).subscribed = s.subscribed := rfl
@[simp] theorem State.emit_timeout_subscribed (k : ErrKind) :
    (s.emit (.timeout k)).subscribed = s.subscribed := rfl
@[simp] theorem State.emit_unsub_subscribed : (s.emit .unsub).subscribed = false := rfl

/-- `armed` depends on `ra_state` only. -/
theorem State.armed_iff : s.armed = true ↔ s.raState = .awaitingFirstChunk ∨ s.raState = .accumulating := by
  unfold State.armed
  cases s.raState <;> decide

theorem State.armed_congr {s t : State} (h : t.raState = s.raState) : t.armed = s.armed := by
  unfold State.armed
  rw [h]

theorem State.raCount_eq : s.raCount = s.raChunks.flatten.length := rfl

@[simp] theorem State.nextRequest_nil (h : s.requests = []) : s.nextRequest = none := by
  unfold State.nextRequest
  rw [h]

theorem State.nextRequest_cons {r : Request} {rs : List Request} (h : s.requests = r :: rs) :
    s.nextRequest = some (r, { s with requests := rs }) := by
  unfold State.nextRequest
  rw [h]

theorem State.nextRequest_present (r : Request) : (s.present r).nextRequest = some (r, s) := rfl

end Sys2Proof.Machine
end

