-- ==== Sys2Proof/Laws/Ops.lean ====
section
/-! SUPPORT. Once and for all, what each shared operation can do: composition and raising of errors, the
completion test, the notification, the timeout, arming, the pure operations, and one step. -/

namespace Sys2Proof.Machine

section Results
variable {α β : Type}

@[simp] theorem raise_eq_err (k : ErrKind) : (raise k : Res α) = .err k := rfl
@[simp] theorem Res.bind_ok (v : α) (f : α → Res β) : (Res.ok v).bind f = f v := rfl
@[simp] theorem Res.bind_err (k : ErrKind) (f : α → Res β) : (Res.err k : Res α).bind f = .err k := rfl

/-- A composition succeeds exactly when both steps do. -/
theorem Res.bind_eq_ok {x : Res α} {f : α → Res β} {w : β} :
    x.bind f = .ok w ↔ ∃ v, x = .ok v ∧ f v = .ok w := by
  cases x <;> simp

/-- A composition fails with the first failure. -/
theorem Res.bind_eq_err {x : Res α} {f : α → Res β} {k : ErrKind} :
    x.bind f = .err k ↔ x = .err k ∨ ∃ v, x = .ok v ∧ f v = .err k := by
  cases x <;> simp

end Results

section Reassembler
variable {s t : State} {chunk : Bytes} {tm : Option Nat}

theorem isDataChunk_iff (c : Cfg) (chunk : Bytes) :
    isDataChunk c chunk = true ↔ chunk ≠ [] ∧ chunk ≠ c.echoOn ∧ chunk ≠ c.echoOff := by
  simp [isDataChunk]

theorem isDataChunk_nil (c : Cfg) : isDataChunk c [] = false := rfl

theorem isDataChunk_echoOn (c : Cfg) : isDataChunk c c.echoOn = false := by simp [isDataChunk]

theorem isDataChunk_echoOff (c : Cfg) : isDataChunk c c.echoOff = false := by simp [isDataChunk]

/-- The completion test, when the declared length is reached. -/
theorem completeIfFull_of_le (h : s.raDeclared ≤ (s.raCount : Int)) :
    s.completeIfFull = ((s.setRaState .complete).emit (.frame s.raChunks.flatten)).emit .unsub := by
  simp [State.completeIfFull, h]

/-- The completion test, when it is not. -/
theorem completeIfFull_of_lt (h : (s.raCount : Int) < s.raDeclared) : s.completeIfFull = s := by
  simp [State.completeIfFull, Int.not_le.mpr h]

/-- A notification that the block ignores. -/
theorem execNtf_ignored (h : s.armed = false ∨ isDataChunk s.cfg chunk = false) :
    execNtf chunk tm s = .next s := by
  rcases h with h | h <;> simp [execNtf, h]

/-- A notification that the block takes. -/
theorem execNtf_taken (ha : s.armed = true) (hd : isDataChunk s.cfg chunk = true) :
    execNtf chunk tm s = .next (s.acceptChunk chunk tm) := by
  simp [execNtf, ha, hd]

theorem acceptChunk_first (h : s.raState = .awaitingFirstChunk) :
    s.acceptChunk chunk tm = (s.storeFirstChunk chunk tm).completeIfFull := by
  simp [State.acceptChunk, h]

theorem acceptChunk_later (h : s.raState = .accumulating) :
    s.acceptChunk chunk tm = (s.appendChunk chunk tm).completeIfFull := by
  simp [State.acceptChunk, h]

/-- Everything a notification can do. -/
theorem execNtf_cases (h : execNtf chunk tm s = .next t) :
    t = s ∨ (isDataChunk s.cfg chunk = true ∧
      ((s.raState = .awaitingFirstChunk ∧ t = (s.storeFirstChunk chunk tm).completeIfFull) ∨
       (s.raState = .accumulating ∧ t = (s.appendChunk chunk tm).completeIfFull))) := by
  by_cases ha : s.armed = true
  · by_cases hd : isDataChunk s.cfg chunk = true
    · rw [execNtf_taken ha hd] at h
      cases h
      rcases (State.armed_iff s).mp ha with h' | h'
      · exact .inr ⟨hd, .inl ⟨h', acceptChunk_first h'⟩⟩
      · exact .inr ⟨hd, .inr ⟨h', acceptChunk_later h'⟩⟩
    · rw [execNtf_ignored (.inr (by simpa using hd))] at h
      cases h
      exact .inl rfl
  · rw [execNtf_ignored (.inl (by simpa using ha))] at h
    cases h
    exact .inl rfl

/-- Everything an `ARM` can do. -/
theorem execArm_cases (h : execArm s = .next t) :
    s.armed = false ∧
      t = (s.clearRa.subscribe.setRaState .awaitingFirstChunk).emit (.timerStart tReasm) := by
  unfold execArm at h
  split at h
  · cases h
  · rename_i hn
    cases h
    exact ⟨by simpa using hn, rfl⟩

/-- Everything a `TMO` can do. -/
theorem execTmo_cases (h : execTmo s = .next t) :
    (s.armed = true ∧
      t = ((s.stopTimer.setRaState .timedOut).emit (.timeout .responseTimeout)).emit .unsub) ∨
    (s.armed = false ∧ t = s.stopTimer) := by
  unfold execTmo at h
  split at h
  · rename_i ha
    cases h
    exact .inl ⟨ha, rfl⟩
  · rename_i hn
    cases h
    exact .inr ⟨by simpa using hn, rfl⟩

end Reassembler

/-- A result is neither the beginning nor the settling of a request. -/
theorem Output.plain_of_not_event {o : Output} (h : ∀ e, o ≠ .event e) :
    o.isTimerStart = false ∧ o.settles = false := by
  cases o with
  | event e => exact absurd rfl (h e)
  | _ => exact ⟨rfl, rfl⟩

/-- A pure operation delivers one result, fixed by the operation and `CFG`, and changes nothing else. -/
theorem exec_pure {i : Instr} (h : pureOp i = true) :
    ∃ f : Cfg → Output, (∀ c e, f c ≠ .event e) ∧
      ∀ s, exec i s = .next (s.deliver (f s.cfg)) := by
  cases i with
  | crc8 b => exact ⟨fun _ => .crc (crc8 b), by simp, fun _ => rfl⟩
  | encDataMeasurements => exact ⟨fun c => .enc (.ok (commandFrame c.templates.dataMeasurements)), by simp, fun _ => rfl⟩
  | encUsageSummary => exact ⟨fun c => .enc (.ok (commandFrame c.templates.usageSummary)), by simp, fun _ => rfl⟩
  | encProductionData => exact ⟨fun c => .enc (.ok (commandFrame c.templates.productionData)), by simp, fun _ => rfl⟩
  | encMosfetOn => exact ⟨fun c => .enc (.ok (commandFrame c.templates.mosfetOn)), by simp, fun _ => rfl⟩
  | encMosfetOff => exact ⟨fun c => .enc (.ok (commandFrame c.templates.mosfetOff)), by simp, fun _ => rfl⟩
  | encInvalid5 => exact ⟨fun _ => .enc (.err .invalidCommandType), by simp, fun _ => rfl⟩
  | encInvalid6 => exact ⟨fun _ => .enc (.err .invalidCommandType), by simp, fun _ => rfl⟩
  | encInvalid7 => exact ⟨fun _ => .enc (.err .invalidCommandType), by simp, fun _ => rfl⟩
  | parseDataMeasurements raw => exact ⟨fun c => .parse (parseDm c raw), by simp, fun _ => rfl⟩
  | parseUsageSummary raw => exact ⟨fun c => .parse (parseUs c raw), by simp, fun _ => rfl⟩
  | parseProductionData raw => exact ⟨fun c => .parse (parsePd c raw), by simp, fun _ => rfl⟩
  | parseMosfetOn raw => exact ⟨fun _ => .parse (parseNoRecord raw), by simp, fun _ => rfl⟩
  | parseMosfetOff raw => exact ⟨fun _ => .parse (parseNoRecord raw), by simp, fun _ => rfl⟩
  | parseInvalid5 raw => exact ⟨fun _ => .parse (parseNoRecord raw), by simp, fun _ => rfl⟩
  | parseInvalid6 raw => exact ⟨fun _ => .parse (parseNoRecord raw), by simp, fun _ => rfl⟩
  | parseInvalid7 raw => exact ⟨fun _ => .parse (parseNoRecord raw), by simp, fun _ => rfl⟩
  | _ => cases h

/-- Everything an operation that answers a next state can do. -/
theorem exec_cases {i : Instr} {s t : State} (h : exec i s = .next t) :
    (pureOp i = true ∧ ∃ o : Output, (∀ e, o ≠ .event e) ∧ t = s.deliver o) ∨
    (i = .arm ∧ execArm s = .next t) ∨
    (∃ chunk tm, i = .ntf chunk tm ∧ execNtf chunk tm s = .next t) ∨
    (i = .tmo ∧ execTmo s = .next t) ∨
    (i = .reset ∧ t = s.clearRa.stopTimer.setRaState .idle) := by
  by_cases hp : pureOp i = true
  · obtain ⟨f, hf, he⟩ := exec_pure hp
    rw [he s] at h
    cases h
    exact .inl ⟨hp, f s.cfg, hf s.cfg, rfl⟩
  · cases i <;> first
      | exact absurd rfl hp
      | exact .inr (.inl ⟨rfl, h⟩)
      | exact .inr (.inr (.inl ⟨_, _, rfl, h⟩))
      | exact .inr (.inr (.inr (.inl ⟨rfl, h⟩)))
      | (cases h; exact .inr (.inr (.inr (.inr ⟨rfl, rfl⟩))))
      | cases h

/-- Everything a step that answers a next state can do. -/
theorem step_cases {s t : State} (h : step s = .next t) :
    (s.requests = [] ∧ t = s) ∨
    ∃ r rs, s.requests = r :: rs ∧ exec (decode r) { s with requests := rs } = .next t := by
  unfold step at h
  cases hr : s.requests with
  | nil =>
    rw [State.nextRequest_nil s hr] at h
    cases h
    exact .inl ⟨rfl, rfl⟩
  | cons r rs =>
    rw [State.nextRequest_cons s hr] at h
    exact .inr ⟨r, rs, rfl, h⟩

end Sys2Proof.Machine
end

