-- ==== Sys2Proof/Laws/Operands.lean ====
section
/-! SUPPORT. What each read of the parser yields, in terms of the bytes it reads (spec
42_response_parser_primitives.md R164 to R175). -/

namespace Sys2Proof.Machine

variable {p : Bytes} {off n : Nat}

theorem memRead_in_bounds (h : off + n ≤ p.length) :
    memRead p off n = .ok ((p.drop off).take n) := by
  simp [memRead, Nat.not_lt.mpr h]

theorem memRead_out_of_bounds (h : p.length < off + n) :
    memRead p off n = .err .outOfBoundsRead := by
  simp [memRead, h]

/-- A read that fails does so with `OutOfBoundsRead`. -/
theorem memRead_err_kind {k : ErrKind} (h : memRead p off n = .err k) : k = .outOfBoundsRead := by
  unfold memRead at h
  split at h <;> simp_all

theorem joinBytes_toNat (hi lo : Byte) : (joinBytes hi lo).toNat = hi.toNat * 256 + lo.toNat := by
  have h : (joinBytes hi lo).toNat = hi.toNat <<< 8 ||| lo.toNat := BitVec.toNat_append hi lo
  rw [h, Nat.shiftLeft_eq, Nat.mul_comm, ← Nat.two_pow_add_eq_or_of_lt lo.isLt, Nat.mul_comm]

theorem joinWords_toNat (m l : Word16) : (joinWords m l).toNat = m.toNat * 65536 + l.toNat := by
  have h : (joinWords m l).toNat = m.toNat <<< 16 ||| l.toNat := BitVec.toNat_append m l
  rw [h, Nat.shiftLeft_eq, Nat.mul_comm, ← Nat.two_pow_add_eq_or_of_lt l.isLt, Nat.mul_comm]

theorem readWord_in_bounds {hi lo : Byte} (h1 : p[off]? = some hi) (h2 : p[off + 1]? = some lo) :
    readWord p off = .ok (joinBytes hi lo) := by
  have hl : off + 2 ≤ p.length := (List.getElem?_eq_some_iff.mp h2).1
  simp only [readWord, memRead_in_bounds hl, Res.bind_ok]
  congr 2 <;> simp [List.getD, h1, h2]

theorem readWord_out_of_bounds (h : p.length < off + 2) : readWord p off = .err .outOfBoundsRead := by
  simp [readWord, memRead_out_of_bounds h]

/-- A word read fails with `OutOfBoundsRead` only. -/
theorem readWord_err_kind {k : ErrKind} (h : readWord p off = .err k) : k = .outOfBoundsRead := by
  simp only [readWord, Res.bind_eq_err] at h
  rcases h with h | ⟨_, _, h⟩
  · exact memRead_err_kind h
  · cases h

/-- A composite read fails with `OutOfBoundsRead` only. -/
theorem readWord32_err_kind {m l : Nat} {k : ErrKind} (h : readWord32 p m l = .err k) :
    k = .outOfBoundsRead := by
  simp only [readWord32, Res.bind_eq_err] at h
  rcases h with h | ⟨_, _, h | ⟨_, _, h⟩⟩
  · exact readWord_err_kind h
  · exact readWord_err_kind h
  · cases h

theorem sext_word16 (w : Word16) :
    sext w = if w.toNat < 32768 then (w.toNat : Int) else w.toNat - 65536 := by
  have e : 2 * w.toNat < 2 ^ 16 ↔ w.toNat < 32768 := by omega
  unfold sext
  by_cases h : w.toNat < 32768
  · rw [if_pos (e.mpr h), if_pos h]
  · rw [if_neg (fun hh => h (e.mp hh)), if_neg h]
    rfl

theorem sext_word32 (v : Word32) :
    sext v = if v.toNat < 2147483648 then (v.toNat : Int) else v.toNat - 4294967296 := by
  have e : 2 * v.toNat < 2 ^ 32 ↔ v.toNat < 2147483648 := by omega
  unfold sext
  by_cases h : v.toNat < 2147483648
  · rw [if_pos (e.mpr h), if_pos h]
  · rw [if_neg (fun hh => h (e.mp hh)), if_neg h]
    rfl

/-- A slice of a word, by division. -/
theorem slice_eq (w : Word16) (hi lo : Nat) :
    slice w hi lo = w.toNat / 2 ^ lo % 2 ^ (hi - lo + 1) := by
  simp [slice, BitVec.extractLsb, BitVec.extractLsb', Nat.shiftRight_eq_div_pow]

@[simp] theorem unpackFlags_length (w : Word16) : (unpackFlags w).length = 16 := by
  simp [unpackFlags]

theorem unpackFlags_get (w : Word16) {i : Nat} (h : i < 16) :
    (unpackFlags w)[i]? = some (w.getLsbD i) := by
  simp [unpackFlags, h]

theorem isPrintable_iff (b : Byte) : isPrintable b = true ↔ 0x20 ≤ b.toNat ∧ b.toNat ≤ 0x7E := by
  simp [isPrintable]

/-- Everything the validation of a date word can do. -/
theorem dateOfWord_cases (w : Word16) :
    dateOfWord w = .err .invalidDateValue ∨
    (dateOfWord w = .ok ⟨1980 + slice w 15 9, slice w 8 5, slice w 4 0⟩ ∧
      1 ≤ slice w 8 5 ∧ slice w 8 5 ≤ 12 ∧ 1 ≤ slice w 4 0 ∧ slice w 4 0 ≤ 31) := by
  simp only [dateOfWord, raise_eq_err, baseYear]
  split
  · exact .inl rfl
  · split
    · exact .inl rfl
    · exact .inr ⟨rfl, by omega⟩

/-- Everything the validation of a time word can do. -/
theorem timeOfWord_cases (w : Word16) :
    timeOfWord w = .err .invalidTimeValue ∨
    (timeOfWord w = .ok ⟨slice w 15 11, slice w 10 5, slice w 4 0 * 2⟩ ∧
      slice w 15 11 ≤ 23 ∧ slice w 10 5 ≤ 59 ∧ slice w 4 0 ≤ 29) := by
  simp only [timeOfWord, raise_eq_err]
  split
  · exact .inl rfl
  · split
    · exact .inl rfl
    · split
      · exact .inl rfl
      · exact .inr ⟨rfl, by omega⟩

end Sys2Proof.Machine
end

