-- ==== Sys2Proof/Laws/Parser.lean ====
section
/-! SUPPORT. What frame validation and field extraction can do (spec 42_response_parser_primitives.md R160 to
R162, R176). -/

namespace Sys2Proof.Machine

/-- A frame of a payload and a byte is accepted exactly when the byte is the payload's checksum. -/
theorem validateFrame_append {p : Bytes} (h : p ≠ []) (x : Byte) :
    validateFrame (p ++ [x]) = if crc8 p = x then .ok p else .err .checksumMismatch := by
  have hl : ¬ p.length + 1 < 2 := by
    have := List.length_pos_of_ne_nil h
    omega
  by_cases hx : crc8 p = x <;> simp [validateFrame, payload, minFrameLen, hl, hx]

theorem validateFrame_short {raw : Bytes} (h : raw.length < 2) :
    validateFrame raw = .err .responseTooShort := by
  simp [validateFrame, minFrameLen, h]

/-- Frame validation fails with one of two kinds. -/
theorem validateFrame_err_kind {raw : Bytes} {k : ErrKind} (h : validateFrame raw = .err k) :
    k = .responseTooShort ∨ k = .checksumMismatch := by
  simp only [validateFrame, raise_eq_err] at h
  split at h
  · cases h
    exact .inl rfl
  · split at h
    · cases h
      exact .inr rfl
    · cases h

/-- Extraction succeeds when every descriptor reads. -/
theorem readFields_of_all {p : Bytes} : ∀ {l : List Desc} {vs : List Value},
    l.map (readDesc p) = vs.map Res.ok → readFields p l = .ok ((l.map Desc.name).zip vs)
  | [], [], _ => rfl
  | [], _ :: _, h => by simp at h
  | _ :: _, [], h => by simp at h
  | d :: ds, v :: vs, h => by
    simp only [List.map_cons, List.cons.injEq] at h
    simp [readFields, h.1, readFields_of_all h.2]

/-- Extraction fails with the first failing descriptor. -/
theorem readFields_first_failure {p : Bytes} {d : Desc} {post : List Desc} {k : ErrKind}
    (hd : readDesc p d = .err k) : ∀ {pre : List Desc} {vs : List Value},
    pre.map (readDesc p) = vs.map Res.ok → readFields p (pre ++ d :: post) = .err k
  | [], _, _ => by simp [readFields, hd]
  | _ :: _, [], h => by simp at h
  | e :: es, v :: vs, h => by
    simp only [List.map_cons, List.cons.injEq] at h
    simp [readFields, h.1, readFields_first_failure hd h.2]

/-- What a successful extraction says of each descriptor. -/
theorem readFields_ok {p : Bytes} : ∀ {l : List Desc} {fs : List (FieldName × Value)},
    readFields p l = .ok fs →
    fs.map Prod.fst = l.map Desc.name ∧
      ∀ d ∈ l, ∃ v, readDesc p d = .ok v ∧ (d.name, v) ∈ fs
  | [], fs, h => by
    simp only [readFields, Res.ok.injEq] at h
    subst h
    simp
  | d :: ds, fs, h => by
    simp only [readFields, Res.bind_eq_ok] at h
    obtain ⟨v, hv, gs, hg, h⟩ := h
    cases h
    obtain ⟨h1, h2⟩ := readFields_ok hg
    refine ⟨by simp [h1], fun e he => ?_⟩
    rcases List.mem_cons.mp he with rfl | he
    · exact ⟨v, hv, by simp⟩
    · obtain ⟨w, hw, hm⟩ := h2 e he
      exact ⟨w, hw, by simp [hm]⟩

/-- What a failed extraction says: some descriptor failed with that kind. -/
theorem readFields_err {p : Bytes} {k : ErrKind} : ∀ {l : List Desc},
    readFields p l = .err k → ∃ d ∈ l, readDesc p d = .err k
  | [], h => by simp [readFields] at h
  | d :: ds, h => by
    simp only [readFields, Res.bind_eq_err] at h
    rcases h with h | ⟨_, _, h | ⟨_, _, h⟩⟩
    · exact ⟨d, by simp, h⟩
    · obtain ⟨e, he, h⟩ := readFields_err h
      exact ⟨e, by simp [he], h⟩
    · cases h

/-- Which kind of error the read of a descriptor of each kind can give. -/
theorem readDesc_err_kind {p : Bytes} {d : Desc} {k : ErrKind} (h : readDesc p d = .err k) :
    k = .outOfBoundsRead ∨ (d.kind = .date ∧ k = .invalidDateValue) ∨
    (d.kind = .time ∧ k = .invalidTimeValue) ∨ (d.kind = .ascii ∧ k = .nonAsciiData) := by
  cases d with
  | u16 | s16 | flags16 =>
    simp only [readDesc, Res.bind_eq_err] at h
    rcases h with h | ⟨_, _, h⟩
    · exact .inl (readWord_err_kind h)
    · cases h
  | u32 | s32 =>
    simp only [readDesc, Res.bind_eq_err] at h
    rcases h with h | ⟨_, _, h⟩
    · exact .inl (readWord32_err_kind h)
    · cases h
  | date =>
    simp only [readDesc, Res.bind_eq_err] at h
    rcases h with h | ⟨w, _, h | ⟨_, _, h⟩⟩
    · exact .inl (readWord_err_kind h)
    · rcases dateOfWord_cases w with hw | ⟨hw, _⟩ <;> rw [hw] at h <;> cases h
      exact .inr (.inl ⟨rfl, rfl⟩)
    · cases h
  | time =>
    simp only [readDesc, Res.bind_eq_err] at h
    rcases h with h | ⟨w, _, h | ⟨_, _, h⟩⟩
    · exact .inl (readWord_err_kind h)
    · rcases timeOfWord_cases w with hw | ⟨hw, _⟩ <;> rw [hw] at h <;> cases h
      exact .inr (.inr (.inl ⟨rfl, rfl⟩))
    · cases h
  | ascii =>
    simp only [readDesc, readAscii, Res.bind_eq_err] at h
    rcases h with (h | ⟨_, _, h⟩) | ⟨_, _, h⟩
    · exact .inl (memRead_err_kind h)
    · split at h <;> cases h
      exact .inr (.inr (.inr ⟨rfl, rfl⟩))
    · cases h

end Sys2Proof.Machine
end

