-- ==== Sys2Proof/Laws/PerInstr.lean ====
section
/-! SUPPORT. Facts about every operation as syntax, one lemma per constructor: its request word belongs to its
row of opcode_table.json and to no other (spec 30_encoding.md R80, R83). -/

namespace Sys2Proof.Laws

/-- A request word belongs to one row of the table and to no other row. -/
abbrev OnlyRow (w : OpWord) (n : Nat) : Prop :=
  ∀ k (h : k < opTable.length), (opTable[k]).matches w = true ↔ k = n

/-- The request word of an operation belongs to the operation's row only. -/
def EncodesRow.Statement (i : Instr) : Prop := OnlyRow (encodeWord i) (rowIndex i)

namespace EncodesRow

theorem crc8 (bytes : Bytes) : Statement (.crc8 bytes) :=
  (by decide : OnlyRow 0b000000 0)

theorem encDataMeasurements : Statement .encDataMeasurements :=
  (by decide : OnlyRow 0b001000 1)

theorem encUsageSummary : Statement .encUsageSummary :=
  (by decide : OnlyRow 0b001001 2)

theorem encProductionData : Statement .encProductionData :=
  (by decide : OnlyRow 0b001010 3)

theorem encMosfetOn : Statement .encMosfetOn :=
  (by decide : OnlyRow 0b001011 4)

theorem encMosfetOff : Statement .encMosfetOff :=
  (by decide : OnlyRow 0b001100 5)

theorem encInvalid5 : Statement .encInvalid5 :=
  (by decide : OnlyRow 0b001101 6)

theorem encInvalid6 : Statement .encInvalid6 :=
  (by decide : OnlyRow 0b001110 7)

theorem encInvalid7 : Statement .encInvalid7 :=
  (by decide : OnlyRow 0b001111 8)

theorem parseDataMeasurements (raw : Bytes) : Statement (.parseDataMeasurements raw) :=
  (by decide : OnlyRow 0b010000 9)

theorem parseUsageSummary (raw : Bytes) : Statement (.parseUsageSummary raw) :=
  (by decide : OnlyRow 0b010001 10)

theorem parseProductionData (raw : Bytes) : Statement (.parseProductionData raw) :=
  (by decide : OnlyRow 0b010010 11)

theorem parseMosfetOn (raw : Bytes) : Statement (.parseMosfetOn raw) :=
  (by decide : OnlyRow 0b010011 12)

theorem parseMosfetOff (raw : Bytes) : Statement (.parseMosfetOff raw) :=
  (by decide : OnlyRow 0b010100 13)

theorem parseInvalid5 (raw : Bytes) : Statement (.parseInvalid5 raw) :=
  (by decide : OnlyRow 0b010101 14)

theorem parseInvalid6 (raw : Bytes) : Statement (.parseInvalid6 raw) :=
  (by decide : OnlyRow 0b010110 15)

theorem parseInvalid7 (raw : Bytes) : Statement (.parseInvalid7 raw) :=
  (by decide : OnlyRow 0b010111 16)

theorem arm : Statement .arm :=
  (by decide : OnlyRow 0b011000 17)

theorem ntf (chunk : Bytes) (t : Option Nat) : Statement (.ntf chunk t) :=
  (by decide : OnlyRow 0b100000 18)

theorem tmo : Statement .tmo :=
  (by decide : OnlyRow 0b101000 19)

theorem reset : Statement .reset :=
  (by decide : OnlyRow 0b110000 20)

theorem reserved : Statement .reserved :=
  (by decide : OnlyRow 0b111000 21)

end EncodesRow

end Sys2Proof.Laws
end

