-- ==== Sys2Proof/Laws/Reassembler.lean ====
section
/-! SUPPORT. The byte count after each append, the two outcomes of the completion test, runs of operations, and
streams of notifications (spec 44_chunk_reassembler.md R237 to R243). -/

namespace Sys2Proof.Machine

variable (s : State)

theorem raCount_storeFirstChunk (c : Bytes) (t : Option Nat) :
    (s.storeFirstChunk c t).raCount = c.length := by
  simp [State.raCount]

theorem raCount_appendChunk (c : Bytes) (t : Option Nat) :
    (s.appendChunk c t).raCount = s.raCount + c.length := by
  simp [State.raCount]

/-- The two outcomes of the completion test. -/
theorem completeIfFull_cases :
    ((s.raCount : Int) < s.raDeclared ∧ s.completeIfFull = s) ∨
    (s.raDeclared ≤ (s.raCount : Int) ∧
      s.completeIfFull = ((s.setRaState .complete).emit (.frame s.raChunks.flatten)).emit .unsub) := by
  by_cases h : s.raDeclared ≤ (s.raCount : Int)
  · exact .inr ⟨h, completeIfFull_of_le h⟩
  · exact .inl ⟨Int.not_le.mp h, completeIfFull_of_lt (Int.not_le.mp h)⟩

theorem execAll_append {xs : List Instr} {s t : State} (h : execAll xs s = .next t) (ys : List Instr) :
    execAll (xs ++ ys) s = execAll ys t := by
  induction xs generalizing s with
  | nil =>
    cases h
    rfl
  | cons x xs ih =>
    simp only [execAll, List.cons_append] at h ⊢
    split at h
    · rename_i u hu
      exact ih h
    · cases h
    · cases h

/-- A stream of notifications to an unarmed reassembler is ignored whole (R243). -/
theorem notifications_unarmed (ns : List (Bytes × Option Nat)) {s : State} (h : s.armed = false) :
    execAll (notifications ns) s = .next s := by
  induction ns with
  | nil => rfl
  | cons n ns ih =>
    have hn : exec (.ntf n.1 n.2) s = .next s := execNtf_ignored (.inl h)
    simp only [notifications, List.map_cons, execAll, hn] at ih ⊢
    exact ih

/-- A data chunk holds a byte. -/
theorem dataChunks_ne_nil {c : Cfg} {ns : List (Bytes × Option Nat)} :
    ∀ x ∈ dataChunks c ns, x ≠ [] := fun _ hx =>
  ((isDataChunk_iff _ _).mp (List.mem_filter.mp hx).2).1

/-- The declared length is fixed by the chunks that hold the first byte. -/
theorem declaredLength_append {cs : List Bytes} (h : cs.flatten ≠ []) (ds : List Bytes) :
    declaredLength (cs ++ ds) = declaredLength cs := by
  unfold declaredLength
  rw [List.flatten_append]
  cases hc : cs.flatten with
  | nil => exact absurd hc h
  | cons => rfl

end Sys2Proof.Machine
end

