-- ==== Sys2Proof/Laws/Safety.lean ====
section
/-! SUPPORT. The induction over steps packaged once, and what one more output does to what has been settled
since the last `TIMER_START` (spec 44_chunk_reassembler.md R242). -/

namespace Sys2Proof.Machine

/-- A property that the queue of requests has no part in, kept by every operation, is kept by every step. -/
theorem step_preserves {P : State → Prop} (hq : ∀ s rs, P s → P { s with requests := rs })
    (hx : ∀ i s t, P s → exec i s = .next t → P t) {s t : State} (h : P s) (hs : step s = .next t) :
    P t := by
  rcases step_cases hs with ⟨_, rfl⟩ | ⟨_, _, _, he⟩
  · exact h
  · exact hx _ _ _ (hq _ _ h) he

theorem sinceArm_append (out : List Output) (o : Output) :
    sinceArm (out ++ [o]) = if o.isTimerStart then [] else o :: sinceArm out := by
  unfold sinceArm
  rw [List.reverse_append]
  cases h : o.isTimerStart <;> simp [h]

theorem settledSinceArm_append (out : List Output) (o : Output) :
    settledSinceArm (out ++ [o]) =
      if o.isTimerStart then [] else if o.settles then o :: settledSinceArm out else settledSinceArm out := by
  unfold settledSinceArm
  rw [sinceArm_append]
  cases o.isTimerStart <;> simp [List.filter_cons]

/-- What was settled in a stretch without `TIMER_START` at the end is among what was settled since the last
one. -/
theorem settled_suffix_le {mid : List Output} (h : ∀ o ∈ mid, o.isTimerStart = false)
    (pre : List Output) : (mid.filter Output.settles).length ≤ (settledSinceArm (pre ++ mid)).length := by
  have e : sinceArm (pre ++ mid) = mid.reverse ++ sinceArm pre := by
    unfold sinceArm
    rw [List.reverse_append, List.takeWhile_append_of_pos]
    intro a ha
    simp [h a (by simpa using ha)]
  simp [settledSinceArm, e]

end Sys2Proof.Machine
end

