-- ==== Sys2Proof/Laws/WellFormed.lean ====
section
/-! SUPPORT. What each check of a layout says, as a proposition (spec 92_eei_decisions.md section 2). -/

namespace Sys2Proof

theorem Desc.isCycleCounter_iff (d : Desc) :
    d.isCycleCounter = true ↔ ∃ k o, d = .u16 (.counter k) o .one := by
  unfold Desc.isCycleCounter
  split <;> simp_all

/-- The two words of every 32-bit descriptor lie 2 bytes apart, in either order (R52). -/
theorem Desc.wordsConsecutive_iff (d : Desc) :
    d.wordsConsecutive = true ↔
      ∀ n m l s, .u32 n m l s = d ∨ .s32 n m l s = d → l = m + 2 ∨ m = l + 2 := by
  cases d with
  | u32 n m l s | s32 n m l s =>
    simp only [Desc.wordsConsecutive, Bool.or_eq_true, beq_iff_eq]
    refine ⟨?_, fun h => h n m l s (by simp)⟩
    rintro h _ _ _ _ (e | e)
    all_goals cases e
    exact h
  | _ => simp [Desc.wordsConsecutive]

/-- One or more cycle counters, then the date (R208). -/
theorem usFieldsOk_iff (l : List Desc) :
    usFieldsOk l = true ↔ ∃ cs off, cs ≠ [] ∧ l = cs ++ [.date .date off] ∧
      ∀ d ∈ cs, ∃ k o, d = .u16 (.counter k) o .one := by
  simp only [← Desc.isCycleCounter_iff]
  fun_induction usFieldsOk l with
  | case1 => simp
  | case2 d =>
    refine ⟨by simp, ?_⟩
    rintro ⟨cs, off, h1, h2, _⟩
    cases cs <;> simp_all
  | case3 d off =>
    refine ⟨fun h => ⟨[d], off, by simp, rfl, by simpa using h⟩, ?_⟩
    rintro ⟨cs, o, h1, h2, h3⟩
    cases cs with
    | nil => exact absurd rfl h1
    | cons c cs =>
      obtain ⟨rfl, _⟩ := List.cons.inj h2
      exact h3 _ (by simp)
  | case4 d ds h1 h2 ih =>
    rw [Bool.and_eq_true]
    refine (and_congr_right fun _ => ih).trans ⟨?_, ?_⟩
    · rintro ⟨h, cs, off, _, rfl, hc⟩
      exact ⟨d :: cs, off, by simp, rfl, List.forall_mem_cons.mpr ⟨h, hc⟩⟩
    · rintro ⟨cs, off, hn, e, hc⟩
      cases cs with
      | nil => exact absurd rfl hn
      | cons c cs =>
        obtain ⟨rfl, rfl⟩ := List.cons.inj e
        refine ⟨hc _ (by simp), cs, off, ?_, rfl, fun x hx => hc x (by simp [hx])⟩
        rintro rfl
        exact h2 off rfl

/-- The installation date, then the serial and the tag (R211). -/
theorem pdFieldsOk_iff (l : List Desc) :
    pdFieldsOk l = true ↔ ∃ o a n b m,
      l = [.date .installDate o, .ascii .serial a n, .ascii .tag b m] := by
  unfold pdFieldsOk
  split <;> simp_all

end Sys2Proof
end

