-- ==== Sys2Proof/Tests/Slice0.lean ====
section
/-! SUPPORT. Tests: the request words, the spec's vectors (95_test_vectors.md, section named at each group), the
checks of well-formedness on ill-formed terms, and a witness for the hypotheses of each statement. -/

namespace Sys2Proof.Tests

open Sys2Proof.Machine

/-! ## The example configuration and small states (95_test_vectors.md section 3) -/

def cfgEx : Cfg where
  templates   := ⟨[0xA1, 0x00], [0xA2, 0x00], [0xA3, 0x00], [0xA4, 0x01], [0xA4, 0x00]⟩
  echoOn      := [0xE0, 0x01]
  echoOff     := [0xE0, 0x00]
  layoutDm    :=
    [.s16 .tempCell 1 .ten, .s16 .tempShunt 3 .ten, .s32 .current 5 7 .hundred] ++
    (List.range 20).map (fun i => .u16 (.voltages i) (9 + 2 * i) .thousand) ++
    [.u16 .avgCellVoltage 49 .ten, .u16 .socPercent 51 .one, .u32 .socScaled 53 55 .thousand,
     .flags16 .alarms 57, .flags16 .warnings 59, .flags16 .status 61,
     .date .dateRtc 63, .time .hourRtc 65, .time .time2 67, .time .time3 69,
     .u16 .chargeCycles 71 .one, .u16 .maxCurrent 73 .ten, .flags16 .alarms2 75]
  layoutUs    := [.u16 (.counter 0) 1 .one, .u16 (.counter 1) 3 .one, .date .date 5]
  layoutPd    := [.date .installDate 1, .ascii .serial 3 16, .ascii .tag 19 13]
  flagNames   := [⟨.status, 0, "mosfet-on"⟩]
  mosfetOnBit := 0
  scaleTemp   := .ten
  scaleAvgV   := .ten
  scaleSocPct := .one
  scaleSoc32  := .thousand
  scaleMaxCur := .ten
  chunkMax    := 20

/-- After power-on with the example configuration. -/
def sEx : State := { State.reset with cfg := cfgEx }

/-- `ARM` accepted. -/
def sArmed : State :=
  { sEx with
    raState := .awaitingFirstChunk, subscribed := true, timerRunning := true
    out := [.event (.timerStart 10)] }

/-- `ARM` and `NTF 05 AA` accepted (RA1). -/
def sAcc : State :=
  { sArmed with raState := .accumulating, raDeclared := 5, raChunks := [[0x05, 0xAA]] }

/-- RA1 completed. -/
def sDone : State :=
  { sArmed with
    raState := .complete, raDeclared := 5, raChunks := [[0x05, 0xAA], [0xBB, 0xCC, 0xDD]]
    subscribed := false
    out := [.event (.timerStart 10), .event (.frame [0x05, 0xAA, 0xBB, 0xCC, 0xDD]), .event .unsub] }

/-- RA9 timed out. -/
def sLate : State :=
  { sAcc with
    raState := .timedOut, subscribed := false, timerRunning := false
    out := [.event (.timerStart 10), .event (.timeout .responseTimeout), .event .unsub] }

/-- The next state of an outcome. -/
def nextOf : Host.Outcome State Fault Refusal → Option State
  | .next t => some t
  | _ => none

/-- The refusal of an outcome. -/
def refusalOf : Host.Outcome State Fault Refusal → Option Refusal
  | .refused r => some r
  | _ => none

/-- What an operation delivers from the state after power-on. -/
def delivers (i : Instr) : Option (List Output) := (nextOf (exec i sEx)).map State.out

/-- The registers of the reassembler, the two environment bits and the outputs. -/
structure Seen where
  raState      : RaState
  raDeclared   : Int
  raChunks     : List Bytes
  raLastTime   : Option Nat
  subscribed   : Bool
  timerRunning : Bool
  out          : List Output
deriving DecidableEq, Repr

/-- What is seen after an operation. -/
def after (i : Instr) (s : State) : Option Seen :=
  (nextOf (exec i s)).map fun t =>
    ⟨t.raState, t.raDeclared, t.raChunks, t.raLastTime, t.subscribed, t.timerRunning, t.out⟩

theorem next_of {o : Host.Outcome State Fault Refusal} {t : State} (h : nextOf o = some t) :
    o = .next t := by
  cases o with
  | next u =>
    cases h
    rfl
  | fault f => cases h
  | refused r => cases h

/-- V-DM1 of section 5. -/
def vDm1 : Bytes :=
  ([0x4E, 0x00, 0xFD, 0xFF, 0xF1, 0xFF, 0xFF, 0xFB, 0x2E, 0x0C, 0xE4, 0x0C, 0xE5, 0x0C, 0xE6, 0x0C] ++
   [0xE7, 0x0C, 0xE8, 0x0C, 0xE9, 0x0C, 0xEA, 0x0C, 0xEB, 0x0C, 0xEC, 0x0C, 0xED, 0x0C, 0xEE, 0x0C] ++
   [0xEF, 0x0C, 0xF0, 0x0C, 0xF1, 0x0C, 0xF2, 0x0C, 0xF3, 0x0C, 0xF4, 0x0C, 0xF5, 0x0C, 0xF6, 0x0C] ++
   [0xF7, 0x0C, 0xED, 0x00, 0x57, 0x00, 0x01, 0x56, 0x66, 0x00, 0x00, 0x80, 0x01, 0x00, 0x05, 0x5D] ++
   [0x0A, 0x6A, 0xDA, 0x00, 0x00, 0xBF, 0x7D, 0x01, 0x2C, 0x05, 0xDC, 0x01, 0x00, 0x8B])

/-- V-PD1 of section 5. -/
def vPd1 : Bytes :=
  ([0x21, 0x58, 0x21, 0x53, 0x4E, 0x2D, 0x32, 0x30, 0x32, 0x34, 0x2D, 0x30, 0x30, 0x30, 0x31, 0x32] ++
   [0x33, 0x34, 0x35, 0x42, 0x4D, 0x53, 0x2D, 0x54, 0x41, 0x47, 0x2D, 0x30, 0x30, 0x30, 0x34, 0x32] ++
   [0xC5])

/-- V-US1 of section 5. -/
def vUs1 : Bytes := [0x08, 0x01, 0x2C, 0x00, 0x07, 0x5D, 0x0A, 0xF4]

/-- The bytes of a string of ASCII characters. -/
def ascii (s : String) : Bytes := s.toList.map fun c => BitVec.ofNat 8 c.toNat

/-- The values of V-DM1, as the table of section 5 gives them. -/
def valuesDm1 : List Value :=
  [.num 253 .ten, .num (-15) .ten, .num (-1234) .hundred] ++
  (List.range 20).map (fun i => .num ((3300 + i : Nat) : Int) .thousand) ++
  [.num 3309 .ten, .num 87 .one, .num 87654 .thousand, .flags (unpackFlags 0x0000),
   .flags ([true] ++ List.replicate 14 false ++ [true]),
   .flags ([true, false, true] ++ List.replicate 13 false),
   .date ⟨2026, 8, 10⟩, .time ⟨13, 22, 52⟩, .time ⟨0, 0, 0⟩, .time ⟨23, 59, 58⟩,
   .num 300 .one, .num 1500 .ten,
   .flags (List.replicate 8 false ++ [true] ++ List.replicate 7 false)]

/-- The record of V-DM1. -/
def recDm1 : Record := ⟨.dataMeasurements, (cfgEx.layoutDm.map Desc.name).zip valuesDm1⟩

/-- The record of V-US1. -/
def recUs1 : Record :=
  ⟨.usageSummary, [(.counter 0, .num 300 .one), (.counter 1, .num 7 .one), (.date, .date ⟨2026, 8, 10⟩)]⟩

/-- The record of V-PD1. -/
def recPd1 : Record :=
  ⟨.productionData, [(.installDate, .date ⟨2024, 1, 1⟩), (.serial, .text (ascii "SN-2024-00012345")),
    (.tag, .text (ascii "BMS-TAG-00042"))]⟩

/-! ## Decoding: words of 95_test_vectors.md section 1, the ignored bits at other values too -/

theorem test_decode_crc8 : decode ⟨0b000000, [0x31], some 7⟩ = .crc8 [0x31] := by decide
theorem test_decode_crc8_low : decode ⟨0b000101, [0x31], some 7⟩ = .crc8 [0x31] := by decide
theorem test_decode_encDataMeasurements : decode ⟨0b001000, [0x31], some 7⟩ = .encDataMeasurements := by decide
theorem test_decode_encUsageSummary : decode ⟨0b001001, [0x31], some 7⟩ = .encUsageSummary := by decide
theorem test_decode_encProductionData : decode ⟨0b001010, [0x31], some 7⟩ = .encProductionData := by decide
theorem test_decode_encMosfetOn : decode ⟨0b001011, [0x31], some 7⟩ = .encMosfetOn := by decide
theorem test_decode_encMosfetOff : decode ⟨0b001100, [0x31], some 7⟩ = .encMosfetOff := by decide
theorem test_decode_encInvalid5 : decode ⟨0b001101, [0x31], some 7⟩ = .encInvalid5 := by decide
theorem test_decode_encInvalid6 : decode ⟨0b001110, [0x31], some 7⟩ = .encInvalid6 := by decide
theorem test_decode_encInvalid7 : decode ⟨0b001111, [0x31], some 7⟩ = .encInvalid7 := by decide
theorem test_decode_parseDataMeasurements : decode ⟨0b010000, [0x31], some 7⟩ = .parseDataMeasurements [0x31] := by decide
theorem test_decode_parseUsageSummary : decode ⟨0b010001, [0x31], some 7⟩ = .parseUsageSummary [0x31] := by decide
theorem test_decode_parseProductionData : decode ⟨0b010010, [0x31], some 7⟩ = .parseProductionData [0x31] := by decide
theorem test_decode_parseMosfetOn : decode ⟨0b010011, [0x31], some 7⟩ = .parseMosfetOn [0x31] := by decide
theorem test_decode_parseMosfetOff : decode ⟨0b010100, [0x31], some 7⟩ = .parseMosfetOff [0x31] := by decide
theorem test_decode_parseInvalid5 : decode ⟨0b010101, [0x31], some 7⟩ = .parseInvalid5 [0x31] := by decide
theorem test_decode_parseInvalid6 : decode ⟨0b010110, [0x31], some 7⟩ = .parseInvalid6 [0x31] := by decide
theorem test_decode_parseInvalid7 : decode ⟨0b010111, [0x31], some 7⟩ = .parseInvalid7 [0x31] := by decide
theorem test_decode_arm : decode ⟨0b011000, [0x31], some 7⟩ = .arm := by decide
theorem test_decode_ntf : decode ⟨0b100111, [0x31], some 7⟩ = .ntf [0x31] (some 7) := by decide
theorem test_decode_tmo : decode ⟨0b101010, [0x31], some 7⟩ = .tmo := by decide
theorem test_decode_reset : decode ⟨0b110001, [0x31], some 7⟩ = .reset := by decide
theorem test_decode_reserved : decode ⟨0b111111, [0x31], some 7⟩ = .reserved := by decide

theorem test_table_word : decodeTableWord 8 0x09 = some .encUsageSummary ∧ decodeTableWord 8 0x3F = some .reserved ∧
    decodeTableWord 8 0x40 = none := by decide

theorem test_fetch_word : (nextOf (step (sEx.withFetchWord 8 0x0F))).map State.out =
    some [.enc (.err .invalidCommandType)] := by decide

/-! ## `CRC8` (section 4.1) -/

theorem test_crc8_digits :
    delivers (.crc8 [0x31, 0x32, 0x33, 0x34, 0x35, 0x36, 0x37, 0x38, 0x39]) = some [.crc 0xF4] := by decide

theorem test_crc8_ones : delivers (.crc8 [0xFF, 0xFF, 0xFF, 0xFF]) = some [.crc 0xDE] := by decide

/-! ## `ENC` (section 4.2) -/

theorem test_encDataMeasurements : delivers .encDataMeasurements = some [.enc (.ok [0xA1, 0x00, 0x0D])] := by decide

theorem test_encUsageSummary : delivers .encUsageSummary = some [.enc (.ok [0xA2, 0x00, 0x32])] := by decide

theorem test_encProductionData : delivers .encProductionData = some [.enc (.ok [0xA3, 0x00, 0x27])] := by decide

theorem test_encMosfetOn : delivers .encMosfetOn = some [.enc (.ok [0xA4, 0x01, 0x4B])] := by decide

theorem test_encMosfetOff : delivers .encMosfetOff = some [.enc (.ok [0xA4, 0x00, 0x4C])] := by decide

theorem test_encInvalid5 : delivers .encInvalid5 = some [.enc (.err .invalidCommandType)] := by decide

theorem test_encInvalid6 : delivers .encInvalid6 = some [.enc (.err .invalidCommandType)] := by decide

theorem test_encInvalid7 : delivers .encInvalid7 = some [.enc (.err .invalidCommandType)] := by decide

/-! ## `PARSE` (section 5) -/

set_option maxRecDepth 20000 in
theorem test_parseDataMeasurements :
    delivers (.parseDataMeasurements vDm1) = some [.parse (.ok recDm1)] := by decide

set_option maxRecDepth 20000 in
theorem test_parseDataMeasurements_errors :
    -- V-DM8, V-DM10, V-DM18, and V-DM4
    delivers (.parseDataMeasurements
      ((((vDm1.set 64 0xAA).set 66 0xDE)).set 77 0xF8)) = some [.parse (.err .invalidDateValue)] ∧
    delivers (.parseDataMeasurements
      (((vDm1.set 67 0x07).set 68 0x80).set 77 0xA0)) = some [.parse (.err .invalidTimeValue)] ∧
    delivers (.parseDataMeasurements
      [0x0C, 0x00, 0xFD, 0xFF, 0xF1, 0xFF, 0xFF, 0xFB, 0x2E, 0x0C, 0xE4, 0xFE]) =
        some [.parse (.err .outOfBoundsRead)] ∧
    delivers (.parseDataMeasurements (vDm1.set 0 0x0E)) = some [.parse (.err .checksumMismatch)] := by
  decide

theorem test_parseUsageSummary : delivers (.parseUsageSummary vUs1) = some [.parse (.ok recUs1)] := by
  decide

theorem test_parseUsageSummary_errors :
    -- V-US3, V-US4, V-US6
    delivers (.parseUsageSummary [0x08, 0x01, 0x2C, 0x00, 0x07, 0x5D, 0x00, 0xC2]) =
      some [.parse (.err .invalidDateValue)] ∧
    delivers (.parseUsageSummary [0x07, 0x01, 0x2C, 0x00, 0x07, 0x5D, 0x64]) =
      some [.parse (.err .outOfBoundsRead)] ∧
    delivers (.parseUsageSummary [0x08, 0x01, 0x2C, 0x00, 0x07, 0x5D, 0x0A, 0xF4, 0x08, 0x01]) =
      some [.parse (.err .checksumMismatch)] := by decide

set_option maxRecDepth 20000 in
theorem test_parseProductionData : delivers (.parseProductionData vPd1) = some [.parse (.ok recPd1)] := by
  decide

set_option maxRecDepth 20000 in
theorem test_parseProductionData_errors :
    -- V-PD2, V-PD4, V-PD6, V-PD8
    delivers (.parseProductionData ((vPd1.set 8 0x7F).set 32 0xF3)) = some [.parse (.err .nonAsciiData)] ∧
    delivers (.parseProductionData ((vPd1.set 31 0x00).set 32 0x5B)) =
      some [.parse (.err .nonAsciiData)] ∧
    delivers (.parseProductionData (0x20 :: (vPd1.drop 1).take 30 ++ [0xAA])) =
      some [.parse (.err .responseTooShort)] ∧
    delivers (.parseProductionData (((vPd1.set 2 0x00).set 6 0x80).set 32 0x3A)) =
      some [.parse (.err .invalidDateValue)] := by decide

theorem test_parseMosfetOn : delivers (.parseMosfetOn vUs1) = some [.parse (.err .invalidCommandType)] ∧
    delivers (.parseMosfetOn (vUs1.set 7 0x00)) = some [.parse (.err .checksumMismatch)] := by decide

theorem test_parseMosfetOff : delivers (.parseMosfetOff vUs1) = some [.parse (.err .invalidCommandType)] ∧
    delivers (.parseMosfetOff [0x00]) = some [.parse (.err .responseTooShort)] := by decide

theorem test_parseInvalid5 : delivers (.parseInvalid5 vUs1) = some [.parse (.err .invalidCommandType)] ∧
    delivers (.parseInvalid5 []) = some [.parse (.err .responseTooShort)] := by decide

theorem test_parseInvalid6 : delivers (.parseInvalid6 vUs1) = some [.parse (.err .invalidCommandType)] ∧
    delivers (.parseInvalid6 []) = some [.parse (.err .responseTooShort)] := by decide

theorem test_parseInvalid7 : delivers (.parseInvalid7 vUs1) = some [.parse (.err .invalidCommandType)] ∧
    delivers (.parseInvalid7 []) = some [.parse (.err .responseTooShort)] := by decide

/-- V-DM1's current, raw -1234, stands for -12.34 (section 5). -/
theorem test_scale : recDm1.lookup .current = some (.num (-1234) .hundred) ∧ scaleDivisor .hundred = 100 := by
  decide

/-- `mosfetOn` of V-DM1 is 1 (section 5). -/
theorem test_mosfetOn : mosfetOn cfgEx recDm1 = some true ∧ flagName cfgEx .status 0 = some "mosfet-on" ∧
    flagName cfgEx .status 1 = none := by decide

/-- The status word of V-DM1 is 00 05: bits 0 and 2 (section 5). -/
theorem test_mosfetOn_bit : mosfetOn { cfgEx with mosfetOnBit := 1 } recDm1 = some false ∧
    mosfetOn { cfgEx with mosfetOnBit := 2 } recDm1 = some true := by decide

/-! ## Reads (sections 4.3 to 4.5) -/

/-- The payload of section 4.3. -/
def pEx : Bytes := [0x06, 0x00, 0x07, 0xFF, 0xFE, 0x80, 0x00]

theorem test_read_words :
    readDesc pEx (.u16 .tempCell 3 .one) = .ok (.num 65534 .one) ∧
    readDesc pEx (.s16 .tempCell 3 .one) = .ok (.num (-2) .one) ∧
    readDesc pEx (.s16 .tempCell 5 .one) = .ok (.num (-32768) .one) ∧
    readDesc pEx (.u16 .tempCell 6 .one) = .err .outOfBoundsRead ∧
    memRead pEx 7 0 = .ok [] := by decide

theorem test_read_composites :
    readDesc pEx (.u32 .current 3 5 .one) = .ok (.num 4294868992 .one) ∧
    readDesc pEx (.s32 .current 3 5 .one) = .ok (.num (-98304) .one) ∧
    readDesc pEx (.s32 .current 1 3 .one) = .ok (.num 524286 .one) ∧
    readDesc pEx (.u32 .current 5 3 .one) = .ok (.num 2147549182 .one) := by decide

theorem test_dates : dateOfWord 0x5D0A = .ok ⟨2026, 8, 10⟩ ∧ dateOfWord 0xFF9F = .ok ⟨2107, 12, 31⟩ ∧
    dateOfWord 0x5C5E = .ok ⟨2026, 2, 30⟩ ∧ dateOfWord 0x5C0A = .err .invalidDateValue ∧
    dateOfWord 0x0220 = .err .invalidDateValue := by decide

theorem test_times : timeOfWord 0x6ADA = .ok ⟨13, 22, 52⟩ ∧ timeOfWord 0xBF7D = .ok ⟨23, 59, 58⟩ ∧
    timeOfWord 0xC000 = .err .invalidTimeValue ∧ timeOfWord 0x0780 = .err .invalidTimeValue ∧
    timeOfWord 0x001E = .err .invalidTimeValue := by decide

/-! ## The reassembler (section 6) -/

/-- R34: what the host reads while accumulating and when timed out. -/
theorem test_host_read : sAcc.hostReadsRaState = 2 ∧ sLate.hostReadsRaState = 4 := by decide

theorem test_arm : after .arm sLate = some ⟨.awaitingFirstChunk, -1, [], none, true, true,
    sLate.out ++ [.event (.timerStart 10)]⟩ := by decide

theorem test_arm_while_armed : refusalOf (exec .arm sAcc) = some .armWhileArmed := by decide

/-- RA1, its third line; and RA7, overshoot without trimming. -/
theorem test_ntf_completes :
    after (.ntf [0xBB, 0xCC, 0xDD] (some 9)) sAcc = some ⟨.complete, 5,
      [[0x05, 0xAA], [0xBB, 0xCC, 0xDD]], some 9, false, true,
      [.event (.timerStart 10), .event (.frame [0x05, 0xAA, 0xBB, 0xCC, 0xDD]), .event .unsub]⟩ ∧
    after (.ntf [0x02, 0x01, 0x02, 0x03] none) sArmed = some ⟨.complete, 2,
      [[0x02, 0x01, 0x02, 0x03]], none, false, true,
      [.event (.timerStart 10), .event (.frame [0x02, 0x01, 0x02, 0x03]), .event .unsub]⟩ := by decide

/-- RA4; RA6, the echo; RA15, a chunk that only begins like an echo; RA10. -/
theorem test_ntf_filters :
    (after (.ntf [0x00] none) sArmed).map Seen.raState = some .complete ∧
    nextOf (exec (.ntf [0xE0, 0x01] none) sAcc) = some sAcc ∧
    (after (.ntf [0xE0, 0x01, 0x00] none) sArmed).map (fun x => (x.raState, x.raDeclared)) =
      some (.accumulating, 224) ∧
    nextOf (exec (.ntf [0x03, 0x01, 0x02] none) sEx) = some sEx := by decide

/-- RA9. -/
theorem test_tmo_armed : after .tmo sAcc = some ⟨.timedOut, 5, [[0x05, 0xAA]], none, false, false,
    [.event (.timerStart 10), .event (.timeout .responseTimeout), .event .unsub]⟩ := by decide

/-- RA1, its last line. -/
theorem test_tmo_late : (after .tmo sDone).map (fun x => (x.raState, x.raDeclared, x.raChunks)) =
    some (sDone.raState, sDone.raDeclared, sDone.raChunks) := by decide

/-- RA13. -/
theorem test_reset : after .reset sAcc = some ⟨.idle, -1, [], none, true, false, sAcc.out⟩ := by decide

theorem test_reserved : refusalOf (exec .reserved sEx) = some .reservedRequestWord := by decide

/-! ## Well-formedness: the example is well-formed (section 3), and each check refuses an ill-formed term -/

theorem test_wf_example : cfgEx.wf = true := by decide

theorem test_wf_refuses_empty_echoOn :
    echoesNonEmpty { cfgEx with echoOn := [] } = false ∧ { cfgEx with echoOn := [] }.wf = false := by decide

theorem test_wf_refuses_empty_echoOff :
    echoesNonEmpty { cfgEx with echoOff := [] } = false ∧ { cfgEx with echoOff := [] }.wf = false := by
  decide

theorem test_wf_refuses_chunkMax_zero :
    chunkMaxPositive { cfgEx with chunkMax := 0 } = false ∧ { cfgEx with chunkMax := 0 }.wf = false := by
  decide

/-- The example's measurement layout with one descriptor replaced. -/
def withDm (k : Nat) (d : Desc) : Cfg := { cfgEx with layoutDm := cfgEx.layoutDm.set k d }

theorem test_wf_refuses_words_apart :
    compositesOk (withDm 2 (.s32 .current 5 8 .hundred)) = false ∧
    (withDm 2 (.s32 .current 5 8 .hundred)).wf = false ∧
    (withDm 2 (.s32 .current 7 5 .hundred)).wf = true := by decide

theorem test_wf_refuses_repeated_name :
    layoutNamesOk { cfgEx with layoutUs :=
      [.u16 (.counter 0) 1 .one, .u16 (.counter 0) 3 .one, .date .date 5] } = false ∧
    { cfgEx with layoutUs :=
      [.u16 (.counter 0) 1 .one, .u16 (.counter 0) 3 .one, .date .date 5] }.wf = false := by decide

theorem test_wf_refuses_wrong_kind :
    dmFieldsOk (withDm 0 (.u16 .tempCell 1 .ten)) = false ∧ (withDm 0 (.u16 .tempCell 1 .ten)).wf = false := by
  decide

theorem test_wf_refuses_wrong_scale :
    dmFieldsOk (withDm 2 (.s32 .current 5 7 .ten)) = false ∧
    (withDm 2 (.s32 .current 5 7 .ten)).wf = false := by decide

theorem test_wf_refuses_missing_cell :
    dmFieldsOk { cfgEx with layoutDm := cfgEx.layoutDm.eraseIdx 22 } = false := by decide

theorem test_wf_refuses_offset_zero :
    dmOffsetsOk (withDm 0 (.s16 .tempCell 0 .ten)) = false ∧ (withDm 0 (.s16 .tempCell 0 .ten)).wf = false := by
  decide

theorem test_wf_refuses_usage_without_counter :
    usFieldsOk [.date .date 5] = false ∧ usFieldsOk [.u16 (.counter 0) 1 .one] = false ∧
    usFieldsOk [] = false ∧ { cfgEx with layoutUs := [.date .date 5] }.wf = false := by decide

theorem test_wf_refuses_production_without_tag :
    pdFieldsOk [.date .installDate 1, .ascii .serial 3 16] = false ∧
    { cfgEx with layoutPd := [.date .installDate 1, .ascii .serial 3 16] }.wf = false := by decide

theorem test_wf_refuses_reserved : Instr.wf cfgEx .reserved = false := by decide

theorem test_wf_refuses_long_chunk :
    Instr.wf cfgEx (.ntf (List.replicate 21 0x00) none) = false ∧
    Instr.wf cfgEx (.ntf (List.replicate 20 0x00) none) = true := by decide

/-! ## Witnesses: concrete values that meet the hypotheses of each statement, clause by clause -/

theorem witness_StepRunsTheDecodedOperation :
    (sEx.present ⟨0b000000, [0x01], none⟩).requests = ⟨0b000000, [0x01], none⟩ :: [] := by decide

theorem witness_NothingHappensUntilAnOperationIsPresented : sEx.requests = [] := by decide

/-- A request that the contract allows, and the two that are refused. -/
theorem witness_StepStopsOnlyOnForbiddenRequests :
    allowed sArmed ⟨0b101000, [], none⟩ = true ∧
    refusalOf (step (sEx.present ⟨0b111000, [], none⟩)) = some .reservedRequestWord ∧
    refusalOf (step (sAcc.present ⟨0b011000, [], none⟩)) = some .armWhileArmed := by decide

theorem witness_PowerOnRefusesIllFormedCfg :
    cfgEx.wf = true ∧ { cfgEx with chunkMax := 0 }.wf = false := by decide

theorem witness_ConstantsAndPastOutputsNeverChange :
    exec (.ntf [0xBB, 0xCC, 0xDD] none) sAcc = .next sDone := next_of (by decide)

theorem witness_PureOperationsIgnoreTheReassembler :
    pureOp (.crc8 [0x01]) = true ∧ sEx.cfg = sDone.cfg ∧ sEx ≠ sDone := by decide

theorem witness_DecodeAndEncodeAgree :
    opCode 0b000111 = 0 ∧ opCode 0b010011 = 2 ∧ opCode 0b100001 = 4 := by decide

theorem witness_ChecksumIsLinear :
    ([0x12, 0x34, 0x56] : Bytes).length = ([0xAB, 0xCD, 0xEF] : Bytes).length := by decide

/-- A frame of one byte (the empty template), and one of two bytes or more. -/
theorem witness_CommandFramePassesTheParserCheck :
    exec .encUsageSummary sEx = .next { sEx with out := sEx.out ++ [.enc (.ok [0xA2, 0x00, 0x32])] } ∧
    2 ≤ ([0xA2, 0x00, 0x32] : Bytes).length ∧
    ∃ s : State, exec .encUsageSummary s = .next { s with out := s.out ++ [.enc (.ok [0x00])] } :=
  ⟨next_of (by decide), by decide,
   { sEx with cfg := { cfgEx with templates := { cfgEx.templates with usageSummary := [] } } },
   next_of (by decide)⟩

theorem witness_ShortFrameIsRejected :
    ([0x00] : Bytes).length < 2 ∧ .parseInvalid7 [0x00] ∈ parseForms [0x00] := by decide

theorem witness_ChecksumTestSplitsOffTheLastByte :
    ([0x00] : Bytes) ≠ [] ∧ crc8 [0x00] ≠ 0x01 ∧ crc8 [0x00] = 0x00 ∧
    .parseMosfetOn [0x00, 0x01] ∈ parseForms ([0x00] ++ [0x01]) := by decide

/-- The first byte, and the checksum itself. -/
theorem witness_AnySingleByteErrorIsRejected :
    ([0x01] : Bytes) ≠ [] ∧
    0 < ([0x01] : Bytes).length + 1 ∧ ([0x01] ++ [crc8 [0x01]])[0]? ≠ some 0x00 ∧
    1 < ([0x01] : Bytes).length + 1 ∧ ([0x01] ++ [crc8 [0x01]])[1]? ≠ some 0x00 ∧
    .parseInvalid5 [0x00, 0x07] ∈ parseForms (([0x01] ++ [crc8 [0x01]]).set 0 0x00) := by decide

set_option maxRecDepth 20000 in
theorem witness_ParseDeliversTheRecord_dataMeasurements :
    vDm1.dropLast ≠ [] ∧ cfgEx.layoutDm.map (readDesc vDm1.dropLast) = valuesDm1.map Res.ok := by decide

theorem witness_ParseDeliversTheRecord_usageSummary :
    vUs1.dropLast ≠ [] ∧ cfgEx.layoutUs.map (readDesc vUs1.dropLast) =
      [Value.num 300 .one, .num 7 .one, .date ⟨2026, 8, 10⟩].map Res.ok := by decide

set_option maxRecDepth 20000 in
/-- The payload has 32 bytes, the least that is accepted. -/
theorem witness_ParseDeliversTheRecord_productionData :
    vPd1.dropLast ≠ [] ∧ 32 = vPd1.dropLast.length ∧ cfgEx.layoutPd.map (readDesc vPd1.dropLast) =
      [Value.date ⟨2024, 1, 1⟩, .text (ascii "SN-2024-00012345"), .text (ascii "BMS-TAG-00042")].map
        Res.ok := by decide

/-- V-SHORT; V-US5, whose second descriptor fails after the first has read; V-US1. -/
theorem witness_ParseStopsAtTheFirstFailure :
    ∃ f ∈ recordForms sEx.cfg,
      validateFrame [0x00] = .err .responseTooShort ∧
      (validateFrame [0x04, 0x01, 0x2C, 0x7A] = .ok [0x04, 0x01, 0x2C] ∧
       f.minLen ≤ ([0x04, 0x01, 0x2C] : Bytes).length ∧
       f.layout = [.u16 (.counter 0) 1 .one] ++ .u16 (.counter 1) 3 .one :: [.date .date 5] ∧
       [Desc.u16 (.counter 0) 1 .one].map (readDesc [0x04, 0x01, 0x2C]) = [Value.num 300 .one].map Res.ok ∧
       readDesc [0x04, 0x01, 0x2C] (.u16 (.counter 1) 3 .one) = .err .outOfBoundsRead) ∧
      exec (f.op vUs1) sEx = .next { sEx with out := sEx.out ++ [.parse (.ok recUs1)] } :=
  ⟨⟨.parseUsageSummary, .usageSummary, cfgEx.layoutUs, 0⟩, by simp [recordForms, sEx], by decide, by decide,
   next_of (by decide)⟩

theorem witness_ProductionDataNeeds32PayloadBytes :
    (0x20 :: (vPd1.drop 1).take 30) ≠ [] ∧ (0x20 :: (vPd1.drop 1).take 30).length = 31 := by decide

theorem witness_ParseWithoutARecordTypeDeliversAnError : ([0x00] : Bytes) ≠ [] := by decide

set_option maxRecDepth 20000 in
/-- V-DM1, whose byte 0 is 4E, beside V-DM5, whose byte 0 is 10. -/
theorem witness_LengthByteDoesNotInfluenceTheRecord :
    sEx.cfg.wf = true ∧ vDm1 = (0x4E :: (vDm1.drop 1).take 76) ++ [crc8 (0x4E :: (vDm1.drop 1).take 76)] ∧
    exec (.parseDataMeasurements ((0x4E :: (vDm1.drop 1).take 76) ++ [crc8 (0x4E :: (vDm1.drop 1).take 76)]))
      sEx = .next { sEx with out := sEx.out ++ [.parse (.ok recDm1)] } :=
  ⟨by decide, by decide, next_of (by decide)⟩

theorem witness_ParseErrorKindsByForm :
    sEx.cfg.wf = true ∧
    exec (.parseDataMeasurements vUs1) sEx =
      .next { sEx with out := sEx.out ++ [.parse (.err .outOfBoundsRead)] } ∧
    exec (.parseUsageSummary [0x08, 0x01, 0x2C, 0x00, 0x07, 0x5D, 0xAA, 0x9D]) sEx =
      .next { sEx with out := sEx.out ++ [.parse (.err .invalidDateValue)] } ∧
    exec (.parseProductionData vUs1) sEx =
      .next { sEx with out := sEx.out ++ [.parse (.err .responseTooShort)] } ∧
    .parseMosfetOff vUs1 ∈ noRecordForms vUs1 ∧
    exec (.parseMosfetOff vUs1) sEx =
      .next { sEx with out := sEx.out ++ [.parse (.err .invalidCommandType)] } :=
  ⟨by decide, next_of (by decide), next_of (by decide), next_of (by decide), by decide,
   next_of (by decide)⟩

set_option maxRecDepth 20000 in
theorem witness_MeasurementRecordHoldsItsFields :
    sEx.cfg.wf = true ∧
    exec (.parseDataMeasurements vDm1) sEx =
      .next { sEx with out := sEx.out ++ [.parse (.ok recDm1)] } :=
  ⟨by decide, next_of (by decide)⟩

/-- The read that ends at the last byte, and the one that passes it by one. -/
theorem witness_MemReadIsBoundsChecked : 5 + 2 ≤ pEx.length ∧ pEx.length < 6 + 2 := by decide

theorem witness_WordReadsAreBigEndian :
    pEx[5]? = some 0x80 ∧ pEx[5 + 1]? = some 0x00 ∧ pEx.length < 6 + 2 := by decide

theorem witness_CompositesJoinTwoUnsignedWords :
    (4294868992 : Nat) = (((0xFF : Byte).toNat * 256 + (0xFE : Byte).toNat) * 256 + (0x80 : Byte).toNat) * 256 +
      (0x00 : Byte).toNat ∧
    pEx[3]? = some 0xFF ∧ pEx[3 + 1]? = some 0xFE ∧ pEx[5]? = some 0x80 ∧ pEx[5 + 1]? = some 0x00 ∧
    pEx.length < 6 + 2 := by decide

theorem witness_FlagWordIsUnpackedBitByBit :
    pEx[5]? = some 0x80 ∧ pEx[5 + 1]? = some 0x00 ∧ pEx.length < 6 + 2 := by decide

/-- Section 4.4: 1980-01-01, 2107-12-31, day 0, month 13; and a word that passes the end by one byte. -/
theorem witness_PackedDateIsValidated :
    pEx.length < 6 + 2 ∧
    ((([0x00, 0x21] : Bytes)[0]? = some 0x00 ∧ ([0x00, 0x21] : Bytes)[0 + 1]? = some 0x21) ∧
      (0x00 : Byte).toNat * 256 + (0x21 : Byte).toNat = 0 * 512 + 1 * 32 + 1) ∧
    ((0xFF : Byte).toNat * 256 + (0x9F : Byte).toNat = 127 * 512 + 12 * 32 + 31 ∧
      (1 ≤ 12 ∧ 12 ≤ 12) ∧ (1 ≤ 31 ∧ 31 ≤ 31)) ∧
    ((0x02 : Byte).toNat * 256 + (0x20 : Byte).toNat = 1 * 512 + 1 * 32 + 0 ∧
      ¬ ((1 ≤ 1 ∧ 1 ≤ 12) ∧ (1 ≤ 0 ∧ 0 ≤ 31))) ∧
    ((0x5D : Byte).toNat * 256 + (0xAA : Byte).toNat = 46 * 512 + 13 * 32 + 10 ∧
      ¬ ((1 ≤ 13 ∧ 13 ≤ 12) ∧ (1 ≤ 10 ∧ 10 ≤ 31))) := by decide

/-- Section 4.5: 23:59:58, hour 24, minute 60, count 30; and a word that passes the end by one byte. -/
theorem witness_PackedTimeIsValidated :
    pEx.length < 6 + 2 ∧
    ((([0xBF, 0x7D] : Bytes)[0]? = some 0xBF ∧ ([0xBF, 0x7D] : Bytes)[0 + 1]? = some 0x7D) ∧
      (0xBF : Byte).toNat * 256 + (0x7D : Byte).toNat = 23 * 2048 + 59 * 32 + 29) ∧
    ((0xC0 : Byte).toNat * 256 + (0x00 : Byte).toNat = 24 * 2048 + 0 * 32 + 0 ∧
      ¬ (24 ≤ 23 ∧ 0 ≤ 59 ∧ 0 ≤ 29)) ∧
    ((0x07 : Byte).toNat * 256 + (0x80 : Byte).toNat = 0 * 2048 + 60 * 32 + 0 ∧
      ¬ (0 ≤ 23 ∧ 60 ≤ 59 ∧ 0 ≤ 29)) ∧
    ((0x00 : Byte).toNat * 256 + (0x1E : Byte).toNat = 0 * 2048 + 0 * 32 + 30 ∧
      ¬ (0 ≤ 23 ∧ 0 ≤ 59 ∧ 30 ≤ 29)) := by decide

/-- Past the end by one; both bounds of the range; just below it and just above it. -/
theorem witness_AsciiRangeIsStrict :
    ([0x20, 0x7E] : Bytes).length < 1 + 2 ∧
    (0 + 2 ≤ ([0x20, 0x7E] : Bytes).length ∧
      ∀ b ∈ (([0x20, 0x7E] : Bytes).drop 0).take 2, 0x20 ≤ b.toNat ∧ b.toNat ≤ 0x7E) ∧
    (∃ b ∈ (([0x20, 0x1F] : Bytes).drop 0).take 2, b.toNat < 0x20 ∨ 0x7E < b.toNat) ∧
    (∃ b ∈ (([0x7F, 0x20] : Bytes).drop 0).take 2, b.toNat < 0x20 ∨ 0x7E < b.toNat) := by decide

theorem witness_ArmStartsAFreshRequest :
    sEx.raState = .idle ∧ sDone.raState = .complete ∧ sLate.raState = .timedOut := by decide

theorem witness_ArmWhileArmedIsRefused :
    sArmed.raState = .awaitingFirstChunk ∧ sAcc.raState = .accumulating := by decide

/-- Not armed; empty and echo chunks; the first chunk short of, and at, its declared length; a later chunk
short of, and at, the declared length. -/
theorem witness_NotificationFollowsItsRules :
    (sEx.raState ≠ .awaitingFirstChunk ∧ sEx.raState ≠ .accumulating) ∧
    ([0xE0, 0x01] = sAcc.cfg.echoOn ∧ [0xE0, 0x00] = sAcc.cfg.echoOff) ∧
    (isDataChunk sArmed.cfg [0x02] = true ∧ sArmed.raState = .awaitingFirstChunk ∧
      ([0x02] : Bytes).length < (([0x02] : Bytes).headD 0).toNat) ∧
    (isDataChunk sArmed.cfg [0x01] = true ∧ (([0x01] : Bytes).headD 0).toNat ≤ ([0x01] : Bytes).length) ∧
    (sAcc.raState = .accumulating ∧ isDataChunk sAcc.cfg [0xBB, 0xCC] = true ∧
      (sAcc.raCount + ([0xBB, 0xCC] : Bytes).length : Nat) < sAcc.raDeclared) ∧
    (isDataChunk sAcc.cfg [0xBB, 0xCC, 0xDD] = true ∧
      sAcc.raDeclared ≤ (sAcc.raCount + ([0xBB, 0xCC, 0xDD] : Bytes).length : Nat)) := by decide

theorem witness_TimeoutEndsAnArmedRequestOnly :
    sArmed.raState = .awaitingFirstChunk ∧ sAcc.raState = .accumulating ∧ sEx.raState = .idle ∧
    sDone.raState = .complete ∧ sLate.raState = .timedOut := by decide

/-- One transition of each operation that makes one. -/
theorem witness_OnlyTheTabledTransitions :
    (exec .arm sEx = .next sArmed ∧ sArmed.raState ≠ sEx.raState) ∧
    (exec (.ntf [0x05, 0xAA] none) sArmed = .next sAcc ∧ sAcc.raState ≠ sArmed.raState) ∧
    (exec (.ntf [0xBB, 0xCC, 0xDD] none) sAcc = .next sDone ∧ sDone.raState ≠ sAcc.raState) ∧
    (exec .tmo sAcc = .next sLate ∧ sLate.raState ≠ sAcc.raState) :=
  ⟨⟨next_of (by decide), by decide⟩, ⟨next_of (by decide), by decide⟩, ⟨next_of (by decide), by decide⟩,
   ⟨next_of (by decide), by decide⟩⟩

theorem witness_EitherOrderOfChunkAndTimeout :
    sAcc.armed = true ∧ exec (.ntf [0xBB, 0xCC, 0xDD] none) sAcc = .next sDone ∧
    sDone.raState = .complete :=
  ⟨by decide, next_of (by decide), by decide⟩

/-- RA6 and RA14: several chunks with an echo and an empty one among them, and one chunk alone (RA4). -/
theorem witness_ReassemblyCompletesExactlyOnce :
    sArmed.raState = .awaitingFirstChunk ∧
    (dataChunks sArmed.cfg [([], none), ([0x04, 0x09], none), ([0xE0, 0x01], none), ([0x08, 0x07], none)] =
      [[0x04, 0x09]] ++ [[0x08, 0x07]] ∧
     [([0x04, 0x09] : Bytes)].flatten.length < declaredLength ([[0x04, 0x09]] ++ [[0x08, 0x07]]) ∧
     declaredLength ([[0x04, 0x09]] ++ [[0x08, 0x07]]) ≤ ([[0x04, 0x09]] ++ [[0x08, 0x07]] : List Bytes).flatten.length) ∧
    (dataChunks sArmed.cfg [([0x00], none)] = [] ++ [[0x00]] ∧
     declaredLength ([] ++ [[0x00]]) ≤ ([] ++ [[0x00]] : List Bytes).flatten.length) := by decide

/-- RA8, no chunk at all, and RA9, one byte short of the declared length. -/
theorem witness_ReassemblyTimesOutAndStaysSo :
    sArmed.raState = .awaitingFirstChunk ∧ sArmed.raChunks = [] ∧ dataChunks sArmed.cfg [] = [] ∧
    dataChunks sArmed.cfg [([0x03, 0xAA], none)] ≠ [] ∧
    (dataChunks sArmed.cfg [([0x03, 0xAA], none)]).flatten.length <
      declaredLength (dataChunks sArmed.cfg [([0x03, 0xAA], none)]) := by decide

theorem witness_ChunkingDoesNotChangeTheFrame :
    sDone.armed = false ∧ ([0x03, 0x01, 0x02] : Bytes) ≠ [] ∧
    ([0x03, 0x01, 0x02] : Bytes).length = (([0x03, 0x01, 0x02] : Bytes).headD 0).toNat ∧
    (∀ n ∈ [(([0x03] : Bytes), (none : Option Nat)), ([0x01, 0x02], none)], isDataChunk sDone.cfg n.1 = true) ∧
    ([(([0x03] : Bytes), (none : Option Nat)), ([0x01, 0x02], none)].map Prod.fst).flatten =
      [0x03, 0x01, 0x02] := by decide

/-- RA1's last chunk, presented. -/
def sLast : State := sAcc.present ⟨0b100000, [0xBB, 0xCC, 0xDD], none⟩

theorem sLast_step : step sLast = .next sDone := next_of (by decide)

theorem witness_StepKeepsTheReassemblerInvariant :
    ReassemblerInv sLast ∧ step sLast = .next sDone := by
  refine ⟨⟨?_, by decide⟩, sLast_step⟩
  show partlyAccumulated sLast
  unfold partlyAccumulated declaredIsFirstByte
  decide

theorem witness_StepKeepsExactlyOnceDelivery : DeliveryInv sLast ∧ step sLast = .next sDone := by
  refine ⟨⟨?_, by decide, by decide, by decide⟩, sLast_step⟩
  intro pre mid post h _
  have hl : mid.length ≤ 1 := by
    have := congrArg List.length h
    simp only [List.length_append] at this
    have h1 : sLast.out.length = 1 := by decide
    omega
  exact Nat.le_trans (List.length_filter_le _ _) hl

theorem witness_StepKeepsTheCapacityBound :
    ReassemblerInv sLast ∧ CapacityInv sLast ∧
    (∀ r rs, sLast.requests = r :: rs → allowed sLast r = true) ∧ step sLast = .next sDone := by
  refine ⟨witness_StepKeepsTheReassemblerInvariant.1, ?_, ?_, sLast_step⟩
  · show sLast.raCount ≤ 254 + sLast.cfg.chunkMax
    decide
  · intro r rs h
    have e : sLast.requests = [⟨0b100000, [0xBB, 0xCC, 0xDD], none⟩] := by decide
    rw [e] at h
    cases h
    decide

theorem witness_StepKeepsTheRequestAlive : LiveRequestInv sLast ∧ step sLast = .next sDone :=
  ⟨fun _ => by decide, sLast_step⟩

theorem witness_StepKeepsTheConfigurationWellFormed :
    sLast.cfg.wf = true ∧ step sLast = .next sDone :=
  ⟨by decide, sLast_step⟩

end Sys2Proof.Tests
end

section
/-! The outcomes of one operation and of one step, and the statements on where a step stops (spec
30_encoding.md R84; 44_chunk_reassembler.md R232; 60_exceptions.md R273, R291). -/

namespace Sys2Proof.Machine

/-- Settles O8: the dispatch hands the reserved word to `execReserved`, which reads nothing of the state. -/
theorem reservedRequestWordIsRefused : Obligations.ReservedRequestWordIsRefused := by
  intro s
  show execReserved s = .refused .reservedRequestWord
  rfl

variable {s : State} {r : Request} {rs : List Request}

theorem execArm_of_armed (h : s.armed = true) : execArm s = .refused .armWhileArmed := by
  simp [execArm, h]

theorem execArm_of_unarmed (h : s.armed = false) :
    execArm s = .next ((s.clearRa.subscribe.setRaState .awaitingFirstChunk).emit (.timerStart tReasm)) := by
  simp [execArm, h]

/-- A notification is taken or ignored, never refused, whatever its length (X11). -/
theorem execNtf_answers_next (chunk : Bytes) (tm : Option Nat) (s : State) :
    ∃ t, execNtf chunk tm s = .next t := by
  unfold execNtf
  split
  · exact ⟨_, rfl⟩
  · exact ⟨_, rfl⟩

/-- A time-out ends a request or is ignored, never refused, whether or not the timer runs (X10). -/
theorem execTmo_answers_next (s : State) : ∃ t, execTmo s = .next t := by
  unfold execTmo
  split
  · exact ⟨_, rfl⟩
  · exact ⟨_, rfl⟩

/-- The outcomes of an operation: a next state, or one of the two refusals. -/
theorem exec_outcome (i : Instr) (s : State) :
    (∃ t, exec i s = .next t) ∨
    (i = .reserved ∧ exec i s = .refused .reservedRequestWord) ∨
    (i = .arm ∧ s.armed = true ∧ exec i s = .refused .armWhileArmed) := by
  by_cases hp : pureOp i = true
  · obtain ⟨f, _, hf⟩ := exec_pure hp
    exact .inl ⟨_, hf s⟩
  · cases i with
    | arm =>
      by_cases ha : s.armed = true
      · exact .inr (.inr ⟨rfl, ha, execArm_of_armed ha⟩)
      · exact .inl ⟨_, execArm_of_unarmed (Bool.eq_false_iff.mpr ha)⟩
    | ntf chunk tm => exact .inl (execNtf_answers_next chunk tm s)
    | tmo => exact .inl (execTmo_answers_next s)
    | reset => exact .inl ⟨_, rfl⟩
    | reserved => exact .inr (.inl ⟨rfl, reservedRequestWordIsRefused s⟩)
    | _ => exact absurd rfl hp

theorem step_of_no_request (h : s.requests = []) : step s = .next s := by
  simp [step, h]

theorem step_of_request (h : s.requests = r :: rs) :
    step s = exec (decode r) { s with requests := rs } := by
  simp [step, State.nextRequest_cons s h]

/-- The outcomes of a step with a request waiting; taking the request off the queue does not arm or disarm. -/
theorem step_outcome (h : s.requests = r :: rs) :
    (∃ t, step s = .next t) ∨
    (decode r = .reserved ∧ step s = .refused .reservedRequestWord) ∨
    (decode r = .arm ∧ s.armed = true ∧ step s = .refused .armWhileArmed) := by
  have harmed : State.armed { s with requests := rs } = s.armed := State.armed_congr rfl
  rw [step_of_request h, ← harmed]
  exact exec_outcome (decode r) { s with requests := rs }

theorem decode_ne_reserved_of_allowed (h : allowed s r = true) : decode r ≠ .reserved := by
  intro hd
  simp [allowed, hd, Instr.wf] at h

theorem unarmed_of_allowed_arm (h : allowed s r = true) (hd : decode r = .arm) : s.armed = false := by
  simpa [allowed, hd, Instr.wf] using h

/-- Settles O7: a step has the outcomes of its operation, and the contract rules out both refusals. -/
theorem stepStopsOnlyOnForbiddenRequests : Obligations.StepStopsOnlyOnForbiddenRequests := by
  intro s
  constructor
  · cases hq : s.requests with
    | nil => exact .inl ⟨s, step_of_no_request hq⟩
    | cons r rs => exact (step_outcome hq).imp_right fun hrefused => ⟨r, rs, rfl, hrefused⟩
  · intro r rs hq hallowed
    rcases step_outcome hq with hnext | ⟨hreserved, _⟩ | ⟨harm, harmed, _⟩
    · exact hnext
    · exact absurd hreserved (decode_ne_reserved_of_allowed hallowed)
    · exact absurd harmed (Bool.eq_false_iff.mp (unarmed_of_allowed_arm hallowed harm))

end Sys2Proof.Machine
end

section
/-! The checksum of one byte and of zeros, the operation `CRC8`, and the statements on unit U1 (spec
40_crc8.md R121 to R125). -/

namespace Sys2Proof.Machine

theorem crc8_singleton (x : Byte) : crc8 [x] = tableRead x := by
  have hseed : crcInit ^^^ x = x := BitVec.zero_xor
  rw [crc8, crc8From_cons, crc8From_nil, hseed]

/-- One leading zero leaves the accumulator at the seed. -/
theorem crc8_zero_cons (bs : Bytes) : crc8 (0 :: bs) = crc8 bs := by
  have hseed : tableRead (crcInit ^^^ 0) = crcInit := tableRead_zero
  rw [crc8, crc8From_cons, hseed, crc8]

/-- Leading zeros are invisible (40_crc8.md section 3, item 4). -/
theorem crc8_replicate_zero_append (n : Nat) (bs : Bytes) :
    crc8 (List.replicate n 0 ++ bs) = crc8 bs := by
  induction n with
  | zero => rfl
  | succ n ih => rw [List.replicate_succ, List.cons_append, crc8_zero_cons, ih]

theorem crc8_replicate_zero (n : Nat) : crc8 (List.replicate n 0) = 0 := by
  simpa [crc8_nil] using crc8_replicate_zero_append n []

theorem exec_crc8 (bs : Bytes) (s : State) :
    exec (.crc8 bs) s = .next (s.deliver (.crc (crc8 bs))) := rfl

/-- Settles O13: the printed table is the generated one (`tableRead_eq_rounds8`), the worked entries are
evaluated. -/
theorem tableEntryIsEightBitSteps : Obligations.TableEntryIsEightBitSteps := by
  refine ⟨crcTable_length, tableRead_eq_rounds8, tableRead_zero, ?one, ?topBit⟩
  case one => decide
  case topBit => decide

/-- Settles O14: the dispatch hands `CRC8` to an operation that only delivers, and the checksum is taken one
byte at a time; the worked checksums are evaluated. -/
theorem crc8DeliversTheTableDrivenChecksum : Obligations.Crc8DeliversTheTableDrivenChecksum := by
  intro s b x n
  refine ⟨exec_crc8 b s, crc8_nil, crc8_append_singleton b x, crc8_singleton x, crc8_replicate_zero n,
    ?oneTwo, ?twoOne, ?digits⟩
  case oneTwo => decide
  case twoOne => decide
  case digits => decide

end Sys2Proof.Machine
end

section
/-! The operations `ENC` with a code of the closed set, and the statement on their command frames (spec
41_command_encoder.md R141 to R146). -/

namespace Sys2Proof.Machine

/-- The common algorithm `enc(c)` of R141 as a change of the state: one more output, everything else kept. -/
theorem encOk_eq (t : Bytes) (s : State) :
    encOk t s = .next { s with out := s.out ++ [.enc (.ok (t ++ [crc8 t]))] } := rfl

/-! Which template each command code selects (R142 to R146). -/

theorem exec_encDataMeasurements (s : State) :
    exec .encDataMeasurements s = encOk s.cfg.templates.dataMeasurements s := rfl

theorem exec_encUsageSummary (s : State) :
    exec .encUsageSummary s = encOk s.cfg.templates.usageSummary s := rfl

theorem exec_encProductionData (s : State) :
    exec .encProductionData s = encOk s.cfg.templates.productionData s := rfl

theorem exec_encMosfetOn (s : State) :
    exec .encMosfetOn s = encOk s.cfg.templates.mosfetOn s := rfl

theorem exec_encMosfetOff (s : State) :
    exec .encMosfetOff s = encOk s.cfg.templates.mosfetOff s := rfl

/-- Settles O18: each command is the common algorithm on its own template. -/
theorem encDeliversTemplateAndChecksum : Obligations.EncDeliversTemplateAndChecksum := by
  intro s
  refine ⟨?dataMeasurements, ?usageSummary, ?productionData, ?mosfetOn, ?mosfetOff⟩
  case dataMeasurements => rw [exec_encDataMeasurements, encOk_eq]
  case usageSummary => rw [exec_encUsageSummary, encOk_eq]
  case productionData => rw [exec_encProductionData, encOk_eq]
  case mosfetOn => rw [exec_encMosfetOn, encOk_eq]
  case mosfetOff => rw [exec_encMosfetOff, encOk_eq]

end Sys2Proof.Machine
end

section
/-! What every `PARSE` form does after frame validation, and the statements on the first failure (spec
42_response_parser_primitives.md R160 to R162, R176). -/

namespace Sys2Proof.Machine

variable {s : State} {raw p : Bytes} {i : Instr} {f : RecordForm} {k : ErrKind} {rec : Record}

/-- What a form with a record type makes of a payload: its length test, then the extraction of its layout
(R200, R207, R209, R210). -/
def RecordForm.readPayload (f : RecordForm) (p : Bytes) : Res Record :=
  if p.length < f.minLen then .err .responseTooShort else extract f.type f.layout p

theorem RecordForm.readPayload_of_le (h : f.minLen ≤ p.length) :
    f.readPayload p = extract f.type f.layout p := by
  simp [RecordForm.readPayload, Nat.not_lt.mpr h]

theorem RecordForm.readPayload_of_no_minLen (h : f.minLen = 0) :
    f.readPayload = extract f.type f.layout :=
  funext fun p => RecordForm.readPayload_of_le (h ▸ Nat.zero_le p.length)

/-- The three record pipelines are one: frame validation, then the form's reading of the payload. -/
theorem exec_recordForm (hf : f ∈ recordForms s.cfg) (raw : Bytes) :
    exec (f.op raw) s = .next (s.deliver (.parse ((validateFrame raw).bind f.readPayload))) := by
  simp only [recordForms, List.mem_cons, List.not_mem_nil, or_false] at hf
  rcases hf with rfl | rfl | rfl
  · rw [RecordForm.readPayload_of_no_minLen rfl]
    rfl
  · rw [RecordForm.readPayload_of_no_minLen rfl]
    rfl
  · rfl

theorem exec_noRecordForm (hi : i ∈ noRecordForms raw) (s : State) :
    exec i s = .next (s.deliver (.parse (parseNoRecord raw))) := by
  simp only [noRecordForms, List.mem_cons, List.not_mem_nil, or_false] at hi
  rcases hi with rfl | rfl | rfl | rfl | rfl <;> rfl

/-- A `PARSE` form is one with a record type, under any configuration, or one without. -/
theorem mem_parseForms (c : Cfg) :
    i ∈ parseForms raw ↔ (∃ f ∈ recordForms c, i = f.op raw) ∨ i ∈ noRecordForms raw := by
  simp [parseForms, recordForms, or_assoc]

/-- Every `PARSE` form begins with frame validation, and a failure there is its result (R160, R176). -/
theorem exec_parseForm_of_invalid_frame (hi : i ∈ parseForms raw) (hv : validateFrame raw = .err k)
    (s : State) : exec i s = .next (s.deliver (.parse (.err k))) := by
  rcases (mem_parseForms s.cfg).mp hi with ⟨f, hf, rfl⟩ | hi
  · rw [exec_recordForm hf, hv, Res.bind_err]
  · rw [exec_noRecordForm hi, parseNoRecord, hv, Res.bind_err]

theorem extract_first_failure {t : RecordType} {pre post : List Desc} {d : Desc} {vs : List Value}
    (hpre : pre.map (readDesc p) = vs.map Res.ok) (hd : readDesc p d = .err k) :
    extract t (pre ++ d :: post) p = .err k := by
  rw [extract, readFields_first_failure hd hpre, Res.bind_err]

/-- A record that is extracted has every field of its layout, in order. -/
theorem extract_ok {t : RecordType} {l : List Desc} (h : extract t l p = .ok rec) :
    rec.type = t ∧ rec.fields.map Prod.fst = l.map Desc.name := by
  obtain ⟨fs, hfs, h⟩ := Res.bind_eq_ok.mp h
  cases h
  exact ⟨rfl, (readFields_ok hfs).1⟩

theorem RecordForm.readPayload_ok (h : f.readPayload p = .ok rec) :
    f.minLen ≤ p.length ∧ extract f.type f.layout p = .ok rec := by
  by_cases hlen : p.length < f.minLen
  · simp [RecordForm.readPayload, hlen] at h
  · have hlen := Nat.not_lt.mp hlen
    exact ⟨hlen, RecordForm.readPayload_of_le hlen ▸ h⟩

/-- One delivery tells what was delivered. -/
theorem next_deliver_injective {o o' : Output}
    (h : (.next (s.deliver o) : Host.Outcome State Fault Refusal) = .next (s.deliver o')) : o = o' := by
  have hout : s.out ++ [o] = s.out ++ [o'] := congrArg State.out (Host.Outcome.next.inj h)
  exact List.singleton_inj.mp (List.append_cancel_left hout)

/-- Settles O21: the length test is the first step of the frame validation that every form begins with. -/
theorem shortFrameIsRejected : Obligations.ShortFrameIsRejected := by
  intro s raw i hlen hi
  exact exec_parseForm_of_invalid_frame hi (validateFrame_short hlen) s

/-- Settles O22: frame validation of a remainder and a byte is one comparison (`validateFrame_append`), and the
residue of the whole frame is 0 exactly when the table is read at 0. -/
theorem checksumTestSplitsOffTheLastByte : Obligations.ChecksumTestSplitsOffTheLastByte := by
  intro s p x hp
  refine ⟨?wrong, ?right, ?residue⟩
  case wrong =>
    intro hx i hi
    have hv : validateFrame (p ++ [x]) = .err .checksumMismatch := by
      rw [validateFrame_append hp, if_neg hx]
    exact exec_parseForm_of_invalid_frame hi hv s
  case right =>
    intro hx
    rw [validateFrame_append hp, if_pos hx]
  case residue =>
    calc crc8 p = x
        ↔ crc8 p ^^^ x = 0 := byte_xor_eq_zero.symm
      _ ↔ tableRead (crc8 p ^^^ x) = 0 :=
          ⟨fun h => by rw [h, tableRead_zero], tableRead_eq_zero _⟩
      _ ↔ crc8 (p ++ [x]) = 0 := by rw [crc8_append_singleton]

/-- Settles O25: each record form is frame validation bound to extraction, and both stop at the first failure. -/
theorem parseStopsAtTheFirstFailure : Obligations.ParseStopsAtTheFirstFailure := by
  intro s raw f hf
  refine ⟨?invalidFrame, ?failingDescriptor, ?success⟩
  case invalidFrame =>
    intro k hv
    exact exec_parseForm_of_invalid_frame ((mem_parseForms s.cfg).mpr (.inl ⟨f, hf, rfl⟩)) hv s
  case failingDescriptor =>
    intro p pre d post vs k hv hlen hlayout hpre hd
    have hread : f.readPayload p = .err k := by
      rw [RecordForm.readPayload_of_le hlen, hlayout, extract_first_failure hpre hd]
    rw [exec_recordForm hf, hv, Res.bind_ok, hread]
    rfl
  case success =>
    intro rec h
    rw [exec_recordForm hf] at h
    have hparse : (validateFrame raw).bind f.readPayload = .ok rec :=
      Output.parse.inj (next_deliver_injective h)
    obtain ⟨p, _, hread⟩ := Res.bind_eq_ok.mp hparse
    obtain ⟨_, hrec⟩ := RecordForm.readPayload_ok hread
    exact extract_ok hrec

end Sys2Proof.Machine
end

section
/-! The payload read and the ASCII read, and the statements on them (spec 42_response_parser_primitives.md R164,
R175). -/

namespace Sys2Proof.Machine

variable {p : Bytes} {off n : Nat}

/-- Settles O31: the bytes read are `n` bytes of the payload from the offset on. -/
theorem memReadIsBoundsChecked : Obligations.MemReadIsBoundsChecked := by
  intro p off n
  refine ⟨fun hfits => ⟨(p.drop off).take n, memRead_in_bounds hfits, ?length, ?bytes⟩, memRead_out_of_bounds⟩
  case length =>
    rw [List.length_take, List.length_drop]
    omega
  case bytes =>
    intro k hk
    rw [List.getElem?_take_of_lt hk, List.getElem?_drop]

theorem readAscii_out_of_bounds (h : p.length < off + n) : readAscii p off n = .err .outOfBoundsRead := by
  rw [readAscii, memRead_out_of_bounds h, Res.bind_err]

/-- In bounds, only the range of the bytes decides. -/
theorem readAscii_in_bounds (h : off + n ≤ p.length) :
    readAscii p off n = if ((p.drop off).take n).all isPrintable then .ok ((p.drop off).take n)
      else .err .nonAsciiData := by
  rw [readAscii, memRead_in_bounds h, Res.bind_ok, raise_eq_err]

theorem all_isPrintable_iff (b : Bytes) :
    b.all isPrintable = true ↔ ∀ x ∈ b, 0x20 ≤ x.toNat ∧ x.toNat ≤ 0x7E := by
  simp only [List.all_eq_true, isPrintable_iff]

theorem readDesc_ascii (p : Bytes) (name : FieldName) (off n : Nat) :
    readDesc p (.ascii name off n) = (readAscii p off n).bind fun b => .ok (.text b) := rfl

/-- Settles O37: the bounds test stands before the range test, and both bounds of the range are inclusive. -/
theorem asciiRangeIsStrict : Obligations.AsciiRangeIsStrict := by
  intro p off n name
  refine ⟨?outOfBounds, fun hfits => ⟨?printable, ?notPrintable⟩⟩
  case outOfBounds =>
    intro h
    rw [readDesc_ascii, readAscii_out_of_bounds h, Res.bind_err]
  case printable =>
    intro hall
    rw [readDesc_ascii, readAscii_in_bounds hfits, if_pos ((all_isPrintable_iff _).mpr hall), Res.bind_ok]
  case notPrintable =>
    rintro ⟨b, hb, hrange⟩
    have hnot : ¬ ((p.drop off).take n).all isPrintable = true := by
      intro hall
      have hin := (all_isPrintable_iff _).mp hall b hb
      omega
    rw [readDesc_ascii, readAscii_in_bounds hfits, if_neg hnot, Res.bind_err]

end Sys2Proof.Machine
end

section
/-! Streams of notifications to an armed reassembler without a chunk, and the statements on completeness and on
`ARM` while armed (spec 44_chunk_reassembler.md R232, R237 to R239, R249). -/

namespace Sys2Proof.Machine

variable {s t : State} {cs : List Bytes} {c : Bytes} {ns : List (Bytes × Option Nat)}

/-- `t` is `s`, armed without a chunk, after it has buffered the data chunks `cs` and before any completion
(R237, R238). -/
structure Buffered (s t : State) (cs : List Bytes) : Prop where
  cfg : t.cfg = s.cfg
  out : t.out = s.out
  phase : (cs = [] ∧ t = s) ∨
    (cs.flatten ≠ [] ∧ t.raState = .accumulating ∧ t.raChunks = cs ∧ t.raDeclared = declaredLength cs)

theorem Buffered.nil (s : State) : Buffered s s [] := ⟨rfl, rfl, .inl ⟨rfl, rfl⟩⟩

theorem Buffered.armed (hs : s.raState = .awaitingFirstChunk) (h : Buffered s t cs) : t.armed = true := by
  rw [State.armed_iff]
  rcases h.phase with ⟨_, rfl⟩ | ⟨_, hacc, _⟩
  · exact .inl hs
  · exact .inr hacc

/-- A data chunk, the first or a later one, goes to the end of the buffer, and then completion is tested. -/
theorem Buffered.acceptChunk (hs : s.raState = .awaitingFirstChunk) (h : Buffered s t cs) (hc : c ≠ [])
    (tm : Option Nat) :
    ∃ u, t.acceptChunk c tm = u.completeIfFull ∧ Buffered s u (cs ++ [c]) := by
  have hbytes : (cs ++ [c]).flatten ≠ [] := by simp [hc]
  rcases h.phase with ⟨rfl, rfl⟩ | ⟨hcs, hacc, hchunks, hdeclared⟩
  · exact ⟨_, acceptChunk_first hs, rfl, rfl, .inr ⟨hbytes, rfl, rfl, by simp [declaredLength]⟩⟩
  · refine ⟨_, acceptChunk_later hacc, h.cfg, h.out, .inr ⟨hbytes, hacc, ?_, ?_⟩⟩
    · rw [State.appendChunk_raChunks, hchunks]
    · rw [State.appendChunk_raDeclared, hdeclared, declaredLength_append hcs]

theorem Buffered.registers (h : Buffered s t cs) (hcs : cs ≠ []) :
    t.raChunks = cs ∧ t.raDeclared = declaredLength cs := by
  rcases h.phase with ⟨hnil, _⟩ | ⟨_, _, hregisters⟩
  · exact absurd hnil hcs
  · exact hregisters

/-- The completion test compares the length of the chunks with the length that they declare. -/
theorem Buffered.full_iff (h : Buffered s t cs) (hcs : cs ≠ []) :
    t.raDeclared ≤ (t.raCount : Int) ↔ declaredLength cs ≤ cs.flatten.length := by
  obtain ⟨hchunks, hdeclared⟩ := h.registers hcs
  rw [State.raCount, hchunks, hdeclared, Int.ofNat_le]

theorem Buffered.exec_ntf_data (hs : s.raState = .awaitingFirstChunk) (h : Buffered s t cs)
    (hc : isDataChunk s.cfg c = true) (tm : Option Nat) :
    ∃ u, exec (.ntf c tm) t = .next u.completeIfFull ∧ Buffered s u (cs ++ [c]) := by
  obtain ⟨u, hu, hbuf⟩ := h.acceptChunk hs ((isDataChunk_iff _ _).mp hc).1 tm
  exact ⟨u, hu ▸ execNtf_taken (h.armed hs) (h.cfg ▸ hc), hbuf⟩

theorem Buffered.exec_ntf_ignored (h : Buffered s t cs) (hc : isDataChunk s.cfg c = false)
    (tm : Option Nat) : exec (.ntf c tm) t = .next t :=
  execNtf_ignored (.inr (h.cfg ▸ hc))

/-- Below the declared length the completion test changes nothing. -/
theorem Buffered.completeIfFull_of_short (h : Buffered s t cs) (hcs : cs ≠ [])
    (hshort : cs.flatten.length < declaredLength cs) : t.completeIfFull = t :=
  completeIfFull_of_lt (Int.not_le.mp ((h.full_iff hcs).not.mpr (Nat.not_le.mpr hshort)))

/-- At the declared length the chunks are delivered, with one `FRAME` and one `UNSUB` (R239). -/
theorem Buffered.completeIfFull_of_full (h : Buffered s t cs) (hcs : cs ≠ [])
    (hfull : declaredLength cs ≤ cs.flatten.length) :
    t.completeIfFull.raState = .complete ∧ t.completeIfFull.raChunks = cs ∧
      t.completeIfFull.raDeclared = declaredLength cs ∧
      t.completeIfFull.out = s.out ++ [.event (.frame cs.flatten), .event .unsub] := by
  obtain ⟨hchunks, hdeclared⟩ := h.registers hcs
  rw [completeIfFull_of_le ((h.full_iff hcs).mpr hfull)]
  simp [hchunks, hdeclared, h.out]

theorem execAll_cons {i : Instr} (h : exec i s = .next t) (is : List Instr) :
    execAll (i :: is) s = execAll is t := by
  simp only [execAll, h]

theorem notifications_append (ns es : List (Bytes × Option Nat)) :
    notifications (ns ++ es) = notifications ns ++ notifications es := List.map_append

theorem notifications_cons (n : Bytes × Option Nat) (ns : List (Bytes × Option Nat)) :
    notifications (n :: ns) = .ntf n.1 n.2 :: notifications ns := rfl

/-- One more notification adds its chunk if that is a data chunk. -/
theorem dataChunks_append_singleton (k : Cfg) (ns : List (Bytes × Option Nat)) (n : Bytes × Option Nat) :
    dataChunks k (ns ++ [n]) = dataChunks k ns ++ if isDataChunk k n.1 then [n.1] else [] := by
  simp [dataChunks, List.filter_cons]

/-- Chunks that fall short of their declared length have fallen short all along. -/
theorem short_of_append_short {ds : List Bytes} (hcs : cs.flatten ≠ [])
    (h : (cs ++ ds).flatten.length < declaredLength (cs ++ ds)) :
    cs.flatten.length < declaredLength cs := by
  rw [declaredLength_append hcs, List.flatten_append, List.length_append] at h
  omega

theorem dataChunks_flatten_ne_nil {k : Cfg} (h : dataChunks k ns ≠ []) : (dataChunks k ns).flatten ≠ [] := by
  obtain ⟨x, hx⟩ := List.exists_mem_of_ne_nil _ h
  intro hflat
  exact dataChunks_ne_nil x hx (List.flatten_eq_nil_iff.mp hflat x hx)

/-- A stream whose data chunks fall short of the declared length is buffered, and nothing is delivered. -/
theorem notifications_short (hs : s.raState = .awaitingFirstChunk)
    (hshort : dataChunks s.cfg ns ≠ [] →
      (dataChunks s.cfg ns).flatten.length < declaredLength (dataChunks s.cfg ns)) :
    ∃ t, execAll (notifications ns) s = .next t ∧ Buffered s t (dataChunks s.cfg ns) := by
  induction ns using List.reverseRecOn with
  | nil => exact ⟨s, rfl, Buffered.nil s⟩
  | append_singleton ns n ih =>
    rw [dataChunks_append_singleton] at hshort ⊢
    obtain ⟨t, hrun, hbuf⟩ := ih fun hne =>
      short_of_append_short (dataChunks_flatten_ne_nil hne) (hshort (List.append_ne_nil_of_left_ne_nil hne _))
    rw [notifications_append, execAll_append hrun, notifications_cons]
    cases hdata : isDataChunk s.cfg n.1 with
    | false =>
      rw [execAll_cons (hbuf.exec_ntf_ignored hdata n.2)]
      exact ⟨t, rfl, by simpa using hbuf⟩
    | true =>
      obtain ⟨u, hexec, hbuf⟩ := hbuf.exec_ntf_data hs hdata n.2
      have hne : dataChunks s.cfg ns ++ [n.1] ≠ [] := by simp
      rw [hdata, if_pos rfl] at hshort
      rw [hbuf.completeIfFull_of_short hne (hshort hne)] at hexec
      rw [execAll_cons hexec]
      exact ⟨u, rfl, hbuf⟩

/-- The notification that carries the last data chunk, with the stream before it and the stream after it. -/
theorem dataChunks_eq_append_singleton {k : Cfg} {pre : List Bytes} {last : Bytes}
    (h : dataChunks k ns = pre ++ [last]) :
    ∃ before tm after, ns = before ++ (last, tm) :: after ∧ dataChunks k before = pre ∧
      isDataChunk k last = true := by
  obtain ⟨chunks, rest, hsplit, hpre, hlast⟩ := List.filter_eq_append_iff.mp h
  obtain ⟨skipped, later, rfl, hskipped, hdata, _⟩ := List.filter_eq_cons_iff.mp hlast
  rw [← List.append_assoc] at hsplit
  obtain ⟨before, fromLast, rfl, hbefore, hfrom⟩ := List.map_eq_append_iff.mp hsplit
  obtain ⟨n, after, rfl, rfl, _⟩ := List.map_eq_cons_iff.mp hfrom
  refine ⟨before, n.2, after, rfl, ?_, hdata⟩
  rw [dataChunks, hbefore, List.filter_append, hpre, List.filter_eq_nil_iff.mpr hskipped, List.append_nil]

/-- Settles O45: the chunks before the last are buffered, the last one completes, and the rest meets an unarmed
reassembler. -/
theorem reassemblyCompletesExactlyOnce : Obligations.ReassemblyCompletesExactlyOnce := by
  intro s ns es pre last hs hdata hshort hfull
  obtain ⟨before, tm, after, rfl, rfl, hlast⟩ := dataChunks_eq_append_singleton hdata
  obtain ⟨t, hrun, hbuf⟩ := notifications_short hs fun hne =>
    declaredLength_append (dataChunks_flatten_ne_nil hne) [last] ▸ hshort hne
  obtain ⟨u, hexec, hbuf⟩ := hbuf.exec_ntf_data hs hlast tm
  obtain ⟨hstate, hrest⟩ := hbuf.completeIfFull_of_full (by simp) hfull
  have hunarmed : u.completeIfFull.armed = false := by simp [State.armed, hstate]
  refine ⟨u.completeIfFull, ?_, hstate, hrest⟩
  rw [List.append_assoc, List.cons_append, notifications_append, execAll_append hrun, notifications_cons,
    execAll_cons hexec, notifications_unarmed _ hunarmed]

/-- Settles O39: both states are the armed ones, in which `ARM` is refused. -/
theorem armWhileArmedIsRefused : Obligations.ArmWhileArmedIsRefused := by
  intro s harmed
  exact execArm_of_armed ((State.armed_iff s).mpr harmed)

end Sys2Proof.Machine
end

section
/-! Proofs of the statements about reset and hazards (spec 70_reset_and_hazards.md). -/

namespace Sys2Proof.Machine

/-- Settles O6: the idle branch of a step, as the law of an empty request queue gives it (R312). -/
theorem nothingHappensUntilAnOperationIsPresented :
    Obligations.NothingHappensUntilAnOperationIsPresented := by
  intro s hidle
  exact step_of_no_request hidle

end Sys2Proof.Machine
end

section
/-! The decoder and the encoder, and the statements on them (spec 30_encoding.md R80 to R84; 10_state.md R34). -/

namespace Sys2Proof

/-! ### Decoding by operation code (R83) -/

theorem opCode_append (op cmd : BitVec 3) : opCode (op ++ cmd) = op := by
  revert op cmd
  decide

theorem cmdCode_append (op cmd : BitVec 3) : cmdCode (op ++ cmd) = cmd := by
  revert op cmd
  decide

variable {r : Request}

theorem decode_crc8 (h : opCode r.opw = 0) : decode r = .crc8 r.bytes := by
  simp [decode, h]

theorem decode_parse (h : opCode r.opw = 2) : decode r = decodeParse (cmdCode r.opw) r.bytes := by
  simp [decode, h]

theorem decode_arm (h : opCode r.opw = 3) : decode r = .arm := by
  simp [decode, h]

theorem decode_ntf (h : opCode r.opw = 4) : decode r = .ntf r.bytes r.time := by
  simp [decode, h]

theorem decode_tmo (h : opCode r.opw = 5) : decode r = .tmo := by
  simp [decode, h]

theorem decode_reset (h : opCode r.opw = 6) : decode r = .reset := by
  simp [decode, h]

theorem decode_reserved (h : opCode r.opw = 7) : decode r = .reserved := by
  simp [decode, h]

theorem decode_encWord (cmd : CmdCode) (b : Bytes) (t : Option Nat) :
    decode ⟨0b001#3 ++ cmd, b, t⟩ = decodeEnc cmd := by
  simp [decode, opCode_append, cmdCode_append]

theorem decode_parseWord (cmd : CmdCode) (b : Bytes) (t : Option Nat) :
    decode ⟨0b010#3 ++ cmd, b, t⟩ = decodeParse cmd b := by
  simp [decode, opCode_append, cmdCode_append]

/-- Settles O1: a row with ignored bits is its operation code, the other rows are single words. -/
theorem requestWordSelectsOperation : Obligations.RequestWordSelectsOperation := by
  intro low b t
  exact ⟨decode_crc8 (opCode_append 0 low),
    decode_encWord 0 b t, decode_encWord 1 b t, decode_encWord 2 b t, decode_encWord 3 b t,
    decode_encWord 4 b t, decode_encWord 5 b t, decode_encWord 6 b t, decode_encWord 7 b t,
    decode_parseWord 0 b t, decode_parseWord 1 b t, decode_parseWord 2 b t, decode_parseWord 3 b t,
    decode_parseWord 4 b t, decode_parseWord 5 b t, decode_parseWord 6 b t, decode_parseWord 7 b t,
    decode_arm (opCode_append 3 low), decode_ntf (opCode_append 4 low), decode_tmo (opCode_append 5 low),
    decode_reset (opCode_append 6 low), decode_reserved (opCode_append 7 low)⟩

/-- Settles O2: the 64 words are tried against the 22 rows. -/
theorem requestWordMatchesExactlyOneRow : Obligations.RequestWordMatchesExactlyOneRow := by
  unfold Obligations.RequestWordMatchesExactlyOneRow
  decide

/-! ### Decoding and encoding -/

theorem decode_encode (i : Instr) : decode (encode i) = i := by
  cases i <;> simp [decode, encode, encodeWord, bytesArg, timeArg, opCode, cmdCode, decodeEnc, decodeParse,
    CommandType.ofCode]

theorem bytesArg_decodeParse (cmd : CmdCode) (raw : Bytes) : bytesArg (decodeParse cmd raw) = raw := by
  unfold decodeParse
  repeat' split
  all_goals rfl

theorem encodeWord_decodeParse (cmd : CmdCode) (raw raw' : Bytes) :
    encodeWord (decodeParse cmd raw) = encodeWord (decodeParse cmd raw') := by
  unfold decodeParse
  repeat' split
  all_goals rfl

/-- The word that encodes what a request decodes to does not depend on the arguments. -/
theorem encodeWord_decode (r : Request) :
    encodeWord (decode r) = encodeWord (decode ⟨r.opw, [], none⟩) := by
  obtain ⟨w, b, t⟩ := r
  simp only [decode]
  split
  case h_3 => exact encodeWord_decodeParse (cmdCode w) b []
  all_goals rfl

/-- Each of the 64 words is encoded again up to the bits that its row ignores. -/
theorem encodeWord_decode_masked : ∀ w : OpWord, ∃ row ∈ opTable, row.matches w = true ∧
    encodeWord (decode ⟨w, [], none⟩) = w &&& row.mask := by
  decide

/-- Settles O3: decoding undoes encoding constructor by constructor; encoding undoes decoding word by word, and
the operations that take an argument are those of three operation codes. -/
theorem decodeAndEncodeAgree : Obligations.DecodeAndEncodeAgree := by
  refine ⟨decode_encode, fun r => ⟨?word, ?bytes, ?time⟩⟩
  case word =>
    obtain ⟨row, hrow, hmatches, hword⟩ := encodeWord_decode_masked r.opw
    exact ⟨row, hrow, hmatches, (encodeWord_decode r).trans hword⟩
  case bytes =>
    rintro (hcrc8 | hparse | hntf)
    · rw [decode_crc8 hcrc8, encode, bytesArg]
    · rw [decode_parse hparse, encode, bytesArg_decodeParse]
    · rw [decode_ntf hntf, encode, bytesArg]
  case time =>
    intro hntf
    rw [decode_ntf hntf, encode, timeArg]

/-- Settles O4: the code tables are evaluated, and the host's read is defined as the code. -/
theorem stateAndErrorCodes : Obligations.StateAndErrorCodes := by
  refine ⟨?states, ?errors, fun _ _ => ⟨rfl, rfl⟩, fun _ => rfl⟩
  case states => decide
  case errors => decide

end Sys2Proof
end

section
/-! What every operation leaves unchanged, the operations that deliver one result, and the statements on them and
on power-on (spec 10_state.md R32, R36; 20_memory.md R66; 41_command_encoder.md R147, R148; 70_reset_and_hazards.md
R317). -/

namespace Sys2Proof.Machine

variable {s t : State} {i : Instr}

/-- Settles O5: the branch of a step with a request waiting. -/
theorem stepRunsTheDecodedOperation : Obligations.StepRunsTheDecodedOperation := by
  intro s r rs hq
  exact step_of_request hq

/-- Settles O9: the reset state holds the values of R36, the device's `CFG` is well-formed by its type. -/
theorem powerOnValues : Obligations.PowerOnValues := by
  exact ⟨rfl, rfl, rfl, rfl, rfl, rfl, Config.deviceCfg_wf, crcTable_length, crc8_nil, rfl, rfl, rfl⟩

@[simp] theorem completeIfFull_raChunks (s : State) : s.completeIfFull.raChunks = s.raChunks := by
  unfold State.completeIfFull
  split <;> rfl

@[simp] theorem completeIfFull_cfg (s : State) : s.completeIfFull.cfg = s.cfg := by
  unfold State.completeIfFull
  split <;> rfl

@[simp] theorem completeIfFull_requests (s : State) : s.completeIfFull.requests = s.requests := by
  unfold State.completeIfFull
  split <;> rfl

/-- The completion test delivers events only. -/
theorem completeIfFull_out (s : State) : ∃ es : List Event, s.completeIfFull.out = s.out ++ es.map .event := by
  rcases completeIfFull_cases s with ⟨_, e⟩ | ⟨_, e⟩
  · exact ⟨[], by simp [e]⟩
  · exact ⟨[.frame s.raChunks.flatten, .unsub], by simp [e]⟩

/-- An operation of U4 and `RESET` write neither `CFG` nor the queue, and deliver events only. -/
theorem exec_frame_of_not_pure (hp : pureOp i = false) (he : exec i s = .next t) :
    t.cfg = s.cfg ∧ t.requests = s.requests ∧ ∃ es : List Event, t.out = s.out ++ es.map .event := by
  rcases exec_cases he with ⟨hpure, _⟩ | ⟨_, he⟩ | ⟨c, tm, _, he⟩ | ⟨_, he⟩ | ⟨_, rfl⟩
  · exact absurd (hp ▸ hpure) Bool.false_ne_true
  · obtain ⟨_, rfl⟩ := execArm_cases he
    exact ⟨rfl, rfl, [.timerStart tReasm], rfl⟩
  · rcases execNtf_cases he with rfl | ⟨_, ⟨_, rfl⟩ | ⟨_, rfl⟩⟩
    · exact ⟨rfl, rfl, [], by simp⟩
    · exact ⟨completeIfFull_cfg _, completeIfFull_requests _, completeIfFull_out _⟩
    · exact ⟨completeIfFull_cfg _, completeIfFull_requests _, completeIfFull_out _⟩
  · rcases execTmo_cases he with ⟨_, rfl⟩ | ⟨_, rfl⟩
    · exact ⟨rfl, rfl, [.timeout .responseTimeout, .unsub], by simp⟩
    · exact ⟨rfl, rfl, [], by simp⟩
  · exact ⟨rfl, rfl, [], by simp⟩

/-- Settles O11: a pure operation only adds its result, any other only adds events. -/
theorem constantsAndPastOutputsNeverChange : Obligations.ConstantsAndPastOutputsNeverChange := by
  intro i s t he
  cases hp : pureOp i with
  | true =>
    obtain ⟨f, _, hf⟩ := exec_pure hp
    cases (hf s).symm.trans he
    exact ⟨rfl, rfl, List.prefix_append _ _⟩
  | false =>
    obtain ⟨hcfg, hrequests, es, hout⟩ := exec_frame_of_not_pure hp he
    exact ⟨hcfg, hrequests, hout ▸ List.prefix_append _ _⟩

/-- Settles O12: the result of a pure operation is a function of `CFG` (`exec_pure`). -/
theorem pureOperationsIgnoreTheReassembler : Obligations.PureOperationsIgnoreTheReassembler := by
  intro i s u hp hcfg
  obtain ⟨f, hresult, hf⟩ := exec_pure hp
  refine ⟨f s.cfg, hf s, ?_, hresult s.cfg⟩
  rw [hcfg]
  exact hf u

/-- Settles O19: the three words are decoded, and the operation delivers the error without reading the state. -/
theorem encInvalidCodeDeliversAnError : Obligations.EncInvalidCodeDeliversAnError := by
  intro s b t
  have hinvalid : encInvalid s = .next { s with out := s.out ++ [.enc (.err .invalidCommandType)] } := rfl
  exact ⟨decode_encWord 5 b t, decode_encWord 6 b t, decode_encWord 7 b t, hinvalid, hinvalid, hinvalid⟩

end Sys2Proof.Machine
end

section
/-! The checksum's properties, the frames that carry one, and the statements on them (spec 40_crc8.md section 3;
41_command_encoder.md section 4; 42_response_parser_primitives.md R178). -/

namespace Sys2Proof.Machine

variable {s : State} {i : Instr} {k : Bytes}


/-- Settles O15: each table look-up is eight bit steps (`tableRead_eq_rounds8`). -/
theorem checksumIsTheBitwiseDivision : Obligations.ChecksumIsTheBitwiseDivision := by
  intro b
  have hstep : (fun c x : Byte => tableRead (c ^^^ x)) = fun c x => rounds8 (c ^^^ x) :=
    funext₂ fun c x => tableRead_eq_rounds8 (c ^^^ x)
  rw [crc8, crc8From, hstep]
  rfl

theorem crc8_append_singleton_eq_zero_iff (b : Bytes) (x : Byte) : crc8 (b ++ [x]) = 0 ↔ x = crc8 b := by
  calc crc8 (b ++ [x]) = 0
      ↔ tableRead (crc8 b ^^^ x) = 0 := by rw [crc8_append_singleton]
    _ ↔ crc8 b ^^^ x = 0 := ⟨tableRead_eq_zero _, fun h => by rw [h, tableRead_zero]⟩
    _ ↔ x = crc8 b := byte_xor_eq_zero.trans eq_comm

/-- Settles O16: the last look-up gives 0 at the index 0 only. -/
theorem residueIsZeroExactlyForTheChecksum : Obligations.ResidueIsZeroExactlyForTheChecksum := by
  intro b x
  exact crc8_append_singleton_eq_zero_iff b x

/-- The accumulator runs linearly over two sequences of one length. -/
theorem crc8From_xor (c d : Byte) {a b : Bytes} (h : a.length = b.length) :
    crc8From (c ^^^ d) (List.zipWith (· ^^^ ·) a b) = crc8From c a ^^^ crc8From d b := by
  induction a generalizing b c d with
  | nil =>
    cases List.length_eq_zero_iff.mp h.symm
    rfl
  | cons x a ih =>
    cases b with
    | nil => cases h
    | cons y b =>
      have hindex : c ^^^ d ^^^ (x ^^^ y) = (c ^^^ x) ^^^ (d ^^^ y) := by ac_rfl
      rw [List.zipWith_cons_cons, crc8From_cons, crc8From_cons, crc8From_cons, hindex, tableRead_xor,
        ih _ _ (Nat.succ.inj h)]

/-- Settles O17: linearity from the seed, which is 0, and the leading zeros one by one. -/
theorem checksumIsLinear : Obligations.ChecksumIsLinear := by
  constructor
  · intro a b hlen
    exact crc8From_xor crcInit crcInit hlen
  · exact crc8_replicate_zero_append

/-- Another byte in one place gives another checksum: the accumulators differ after it, and stay different. -/
theorem crc8_set_ne {l : Bytes} {n : Nat} {v : Byte} (hn : n < l.length) (hv : l[n]? ≠ some v) :
    crc8 (l.set n v) ≠ crc8 l := by
  intro heq
  have hsplit : crc8 l = crc8 (l.take n ++ l[n] :: l.drop (n + 1)) := by
    rw [← List.drop_eq_getElem_cons hn, List.take_append_drop]
  rw [List.set_eq_take_append_cons_drop, if_pos hn, hsplit, crc8, crc8, crc8From_append,
    crc8From_append] at heq
  have hbyte : v = l[n] := (BitVec.xor_right_inj _).mp (tableRead_injective (crc8From_injective heq))
  exact hv (by rw [List.getElem?_eq_getElem hn, hbyte])

/-! ### Frames with their checksum -/

/-- Frame validation is the residue test on the whole frame (R162). -/
theorem validateFrame_of_residue_ne_zero {raw : Bytes} (hlen : 2 ≤ raw.length) (hres : crc8 raw ≠ 0) :
    validateFrame raw = .err .checksumMismatch := by
  rcases List.eq_nil_or_concat raw with rfl | ⟨p, x, rfl⟩
  · exact absurd rfl hres
  · rw [List.concat_eq_append] at hlen hres ⊢
    have hp : p ≠ [] := by
      rintro rfl
      simp at hlen
    have hx : ¬ crc8 p = x := fun h => hres ((crc8_append_singleton_eq_zero_iff p x).mpr h.symm)
    rw [validateFrame_append hp, if_neg hx]

theorem validateFrame_append_crc8 {p : Bytes} (hp : p ≠ []) : validateFrame (p ++ [crc8 p]) = .ok p := by
  rw [validateFrame_append hp, if_pos rfl]

/-- Settles O23: the residue of the frame is 0, that of the corrupted one is not (`crc8_set_ne`). -/
theorem anySingleByteErrorIsRejected : Obligations.AnySingleByteErrorIsRejected := by
  intro s p n v i hp hn hv hi
  have hframe : crc8 (p ++ [crc8 p]) = 0 := (crc8_append_singleton_eq_zero_iff p _).mpr rfl
  have hres : crc8 ((p ++ [crc8 p]).set n v) ≠ 0 :=
    hframe ▸ crc8_set_ne (by simpa using hn) hv
  have hlen : 2 ≤ ((p ++ [crc8 p]).set n v).length := by
    have := List.length_pos_of_ne_nil hp
    simp
    omega
  exact exec_parseForm_of_invalid_frame hi (validateFrame_of_residue_ne_zero hlen hres) s

/-- The operation that delivers a byte sequence is an `ENC` of the closed set. -/
theorem exec_delivers_commandFrame
    (he : exec i s = .next (s.deliver (.enc (.ok k)))) : ∃ p, k = commandFrame p := by
  cases hp : pureOp i with
  | true =>
    cases i with
    | encDataMeasurements | encUsageSummary | encProductionData | encMosfetOn | encMosfetOff =>
      cases next_deliver_injective he
      exact ⟨_, rfl⟩
    | arm | ntf | tmo | reset | reserved => cases hp
    | _ => cases next_deliver_injective he
  | false =>
    obtain ⟨_, _, es, hout⟩ := exec_frame_of_not_pure hp he
    have hevents : [Output.enc (.ok k)] = es.map .event := List.append_cancel_left hout
    have hevent : Output.enc (.ok k) ∈ es.map .event := hevents ▸ List.mem_singleton_self _
    simp at hevent

/-- Settles O20: a command frame is a template and its checksum. -/
theorem commandFramePassesTheParserCheck : Obligations.CommandFramePassesTheParserCheck := by
  intro i s k he
  obtain ⟨p, rfl⟩ := exec_delivers_commandFrame he
  refine ⟨by simp [commandFrame], (crc8_append_singleton_eq_zero_iff p _).mpr rfl, ?_, ?_⟩
  · rw [commandFrame, List.getLast?_concat, List.dropLast_concat]
  · intro hlen
    have hp : p ≠ [] := by
      rintro rfl
      simp [commandFrame] at hlen
    rw [commandFrame, List.dropLast_concat, validateFrame_append_crc8 hp]

end Sys2Proof.Machine
end

section
/-! The reads of the descriptor kinds, and the statements on them (spec 42_response_parser_primitives.md sections 3
to 6). -/

namespace Sys2Proof.Machine

variable {p : Bytes} {off m l : Nat} {name : FieldName} {sc : Scale}

/-! ### One descriptor, by the word or the composite it reads -/

theorem readDesc_u16 {w : Word16} (h : readWord p off = .ok w) :
    readDesc p (.u16 name off sc) = .ok (.num w.toNat sc) := by
  rw [readDesc, h, Res.bind_ok, unsigned]

theorem readDesc_s16 {w : Word16} (h : readWord p off = .ok w) :
    readDesc p (.s16 name off sc) = .ok (.num (sext w) sc) := by
  rw [readDesc, h, Res.bind_ok]

theorem readDesc_u32 {v : Word32} (h : readWord32 p m l = .ok v) :
    readDesc p (.u32 name m l sc) = .ok (.num v.toNat sc) := by
  rw [readDesc, h, Res.bind_ok, unsigned]

theorem readDesc_s32 {v : Word32} (h : readWord32 p m l = .ok v) :
    readDesc p (.s32 name m l sc) = .ok (.num (sext v) sc) := by
  rw [readDesc, h, Res.bind_ok]

theorem readDesc_flags16 {w : Word16} (h : readWord p off = .ok w) :
    readDesc p (.flags16 name off) = .ok (.flags (unpackFlags w)) := by
  rw [readDesc, h, Res.bind_ok]

theorem readDesc_date {w : Word16} (h : readWord p off = .ok w) :
    readDesc p (.date name off) = (dateOfWord w).bind fun d => .ok (.date d) := by
  rw [readDesc, h, Res.bind_ok]

theorem readDesc_time {w : Word16} (h : readWord p off = .ok w) :
    readDesc p (.time name off) = (timeOfWord w).bind fun t => .ok (.time t) := by
  rw [readDesc, h, Res.bind_ok]

/-- A descriptor of a kind that reads one word fails with the word. -/
theorem readDesc_word_out_of_bounds (h : p.length < off + 2) (name : FieldName) (sc : Scale) :
    readDesc p (.u16 name off sc) = .err .outOfBoundsRead ∧
    readDesc p (.s16 name off sc) = .err .outOfBoundsRead ∧
    readDesc p (.flags16 name off) = .err .outOfBoundsRead ∧
    readDesc p (.date name off) = .err .outOfBoundsRead ∧
    readDesc p (.time name off) = .err .outOfBoundsRead := by
  simp [readDesc, readWord_out_of_bounds h]

/-- Settles O32: the word of two bytes (`joinBytes_toNat`), and its sign (`sext_word16`). -/
theorem wordReadsAreBigEndian : Obligations.WordReadsAreBigEndian := by
  intro p off hi lo name sc
  refine ⟨fun hhi hlo => ⟨?unsigned, ?signed⟩, fun hout => ?outOfBounds⟩
  case unsigned => rw [readDesc_u16 (readWord_in_bounds hhi hlo), joinBytes_toNat]
  case signed => rw [readDesc_s16 (readWord_in_bounds hhi hlo), sext_word16, joinBytes_toNat]
  case outOfBounds =>
    obtain ⟨hu16, hs16, _⟩ := readDesc_word_out_of_bounds hout name sc
    exact ⟨hu16, hs16⟩

theorem readWord32_in_bounds {b3 b2 b1 b0 : Byte} (h3 : p[m]? = some b3) (h2 : p[m + 1]? = some b2)
    (h1 : p[l]? = some b1) (h0 : p[l + 1]? = some b0) :
    readWord32 p m l = .ok (joinWords (joinBytes b3 b2) (joinBytes b1 b0)) := by
  rw [readWord32, readWord_in_bounds h3 h2, Res.bind_ok, readWord_in_bounds h1 h0, Res.bind_ok]

/-- A word read yields a word or is out of bounds. -/
theorem readWord_cases (p : Bytes) (off : Nat) :
    (∃ w, readWord p off = .ok w) ∨ readWord p off = .err .outOfBoundsRead := by
  cases h : readWord p off with
  | ok w => exact .inl ⟨w, rfl⟩
  | err k => exact .inr (readWord_err_kind h ▸ rfl)

/-- Either word out of bounds fails the composite. -/
theorem readWord32_out_of_bounds (h : p.length < m + 2 ∨ p.length < l + 2) :
    readWord32 p m l = .err .outOfBoundsRead := by
  rcases readWord_cases p m with ⟨w, hm⟩ | hm
  · rcases h with h | h
    · cases hm.symm.trans (readWord_out_of_bounds h)
    · rw [readWord32, hm, Res.bind_ok, readWord_out_of_bounds h, Res.bind_err]
  · rw [readWord32, hm, Res.bind_err]

/-- Settles O33: two unsigned words are joined (`joinWords_toNat`), and the sign is taken of the composite
(`sext_word32`). -/
theorem compositesJoinTwoUnsignedWords : Obligations.CompositesJoinTwoUnsignedWords := by
  intro p m l b3 b2 b1 b0 v name sc hv
  have hjoin : (joinWords (joinBytes b3 b2) (joinBytes b1 b0)).toNat = v := by
    rw [joinWords_toNat, joinBytes_toNat, joinBytes_toNat, hv]
    ring
  refine ⟨fun h3 h2 h1 h0 => ⟨?unsigned, ?signed⟩, fun hout => ⟨?u32, ?s32⟩⟩
  case unsigned => rw [readDesc_u32 (readWord32_in_bounds h3 h2 h1 h0), hjoin]
  case signed => rw [readDesc_s32 (readWord32_in_bounds h3 h2 h1 h0), sext_word32, hjoin]
  case u32 => rw [readDesc, readWord32_out_of_bounds hout, Res.bind_err]
  case s32 => rw [readDesc, readWord32_out_of_bounds hout, Res.bind_err]

/-- Settles O34: flag `i` is bit `i` of the word (`unpackFlags_get`). -/
theorem flagWordIsUnpackedBitByBit : Obligations.FlagWordIsUnpackedBitByBit := by
  intro p off hi lo name
  refine ⟨fun hhi hlo => ⟨_, readDesc_flags16 (readWord_in_bounds hhi hlo), unpackFlags_length _, ?bits⟩,
    fun hout => ?outOfBounds⟩
  case bits =>
    intro i hi
    rw [unpackFlags_get _ hi, BitVec.getLsbD, Nat.testBit_eq_decide_div_mod_eq, joinBytes_toNat]
  case outOfBounds =>
    obtain ⟨_, _, hflags, _⟩ := readDesc_word_out_of_bounds hout name .one
    exact hflags

/-! ### Packed dates and times -/

theorem dateOfWord_eq (w : Word16) :
    dateOfWord w = if (1 ≤ slice w 8 5 ∧ slice w 8 5 ≤ 12) ∧ (1 ≤ slice w 4 0 ∧ slice w 4 0 ≤ 31) then
      .ok ⟨1980 + slice w 15 9, slice w 8 5, slice w 4 0⟩ else .err .invalidDateValue := by
  simp only [dateOfWord, raise_eq_err, baseYear]
  split
  · rw [if_neg (by omega)]
  · split
    · rw [if_neg (by omega)]
    · rw [if_pos (by omega)]

theorem timeOfWord_eq (w : Word16) :
    timeOfWord w = if slice w 15 11 ≤ 23 ∧ slice w 10 5 ≤ 59 ∧ slice w 4 0 ≤ 29 then
      .ok ⟨slice w 15 11, slice w 10 5, slice w 4 0 * 2⟩ else .err .invalidTimeValue := by
  simp only [timeOfWord, raise_eq_err]
  split
  · rw [if_neg (by omega)]
  · split
    · rw [if_neg (by omega)]
    · split
      · rw [if_neg (by omega)]
      · rw [if_pos (by omega)]

/-- The sub-fields of a date word, from the top: 7, 4 and 5 bits (R94). -/
theorem slices_of_date {w : Word16} {yo mo dy : Nat} (hmo : mo < 16) (hdy : dy < 32)
    (hw : w.toNat = yo * 512 + mo * 32 + dy) : slice w 15 9 = yo ∧ slice w 8 5 = mo ∧ slice w 4 0 = dy := by
  simp only [slice_eq, hw]
  omega

/-- The sub-fields of a time word, from the top: 5, 6 and 5 bits (R95). -/
theorem slices_of_time {w : Word16} {h m x : Nat} (hm : m < 64) (hx : x < 32)
    (hw : w.toNat = h * 2048 + m * 32 + x) : slice w 15 11 = h ∧ slice w 10 5 = m ∧ slice w 4 0 = x := by
  simp only [slice_eq, hw]
  omega

/-- Settles O35: the sub-fields are cut out (`slices_of_date`) and tested (`dateOfWord_eq`). -/
theorem packedDateIsValidated : Obligations.PackedDateIsValidated := by
  intro p off hi lo yo mo dy name
  refine ⟨?inBounds, fun hout => ?outOfBounds⟩
  case inBounds =>
    intro hhi hlo _ hmo hdy hword
    obtain ⟨hy, hm, hd⟩ := slices_of_date hmo hdy ((joinBytes_toNat hi lo).trans hword)
    rw [readDesc_date (readWord_in_bounds hhi hlo), dateOfWord_eq, hy, hm, hd]
    constructor
    · intro hvalid
      rw [if_pos hvalid, Res.bind_ok]
    · intro hinvalid
      rw [if_neg hinvalid, Res.bind_err]
  case outOfBounds =>
    obtain ⟨_, _, _, hdate, _⟩ := readDesc_word_out_of_bounds hout name .one
    exact hdate

/-- Settles O36: the sub-fields are cut out (`slices_of_time`) and tested (`timeOfWord_eq`). -/
theorem packedTimeIsValidated : Obligations.PackedTimeIsValidated := by
  intro p off hi lo h m x name
  refine ⟨?inBounds, fun hout => ?outOfBounds⟩
  case inBounds =>
    intro hhi hlo _ hm hx hword
    obtain ⟨hh, hm, hx⟩ := slices_of_time hm hx ((joinBytes_toNat hi lo).trans hword)
    rw [readDesc_time (readWord_in_bounds hhi hlo), timeOfWord_eq, hh, hm, hx]
    constructor
    · intro hvalid
      rw [if_pos hvalid, Res.bind_ok]
    · intro hinvalid
      rw [if_neg hinvalid, Res.bind_err]
  case outOfBounds =>
    obtain ⟨_, _, _, _, htime⟩ := readDesc_word_out_of_bounds hout name .one
    exact htime

end Sys2Proof.Machine
end

section
/-! The checks of a `CFG` as propositions, and the statements on power-on and on the constants (spec
92_eei_decisions.md section 2; 93_implementation_defined.md X3, X4). -/

namespace Sys2Proof

variable {c : Cfg}

theorem echoesNonEmpty_iff : echoesNonEmpty c = true ↔ c.echoOn ≠ [] ∧ c.echoOff ≠ [] := by
  simp [echoesNonEmpty]

theorem compositesOk_iff : compositesOk c = true ↔ ∀ name m l sc,
    .u32 name m l sc ∈ c.layoutDm ++ c.layoutUs ++ c.layoutPd ∨
    .s32 name m l sc ∈ c.layoutDm ++ c.layoutUs ++ c.layoutPd → l = m + 2 ∨ m = l + 2 := by
  simp only [compositesOk, List.all_eq_true, Desc.wordsConsecutive_iff]
  constructor
  · rintro h name m l sc (hd | hd)
    · exact h _ hd name m l sc (.inl rfl)
    · exact h _ hd name m l sc (.inr rfl)
  · rintro h d hd name m l sc (rfl | rfl)
    · exact h name m l sc (.inl hd)
    · exact h name m l sc (.inr hd)

theorem layoutNamesOk_iff : layoutNamesOk c = true ↔
    (c.layoutDm.map Desc.name).Nodup ∧ (c.layoutUs.map Desc.name).Nodup ∧
      (c.layoutPd.map Desc.name).Nodup := by
  simp [layoutNamesOk, namesDistinct, and_assoc]

theorem dmOffsetsOk_iff : dmOffsetsOk c = true ↔ ∀ d ∈ c.layoutDm, ∀ o ∈ d.offsets, 1 ≤ o := by
  simp [dmOffsetsOk]

/-- The last field of R201's table is the second alarm bank. -/
theorem dmFields_eq_dropLast_append (c : Cfg) :
    dmFields c = (dmFields c).dropLast ++ [(.alarms2, .flags16, none)] := rfl

/-- The measurement layout without its further counters is R201's table, with or without the second alarm bank
(C1; log entry 10). -/
theorem dmFieldsOk_iff {p : Desc → Bool} (hp : ∀ d, p d = !d.isExtraCounter) : dmFieldsOk c = true ↔
    ∃ last : List FieldSpec, (last = [] ∨ last = [(.alarms2, .flags16, none)]) ∧
      (c.layoutDm.filter p).map Desc.spec = (dmFields c).dropLast ++ last := by
  obtain rfl : p = fun d => !d.isExtraCounter := funext hp
  simp only [dmFieldsOk, Bool.or_eq_true, beq_iff_eq]
  constructor
  · rintro (h | h)
    · exact ⟨_, .inr rfl, h.trans (dmFields_eq_dropLast_append c)⟩
    · exact ⟨[], .inl rfl, h.trans (List.append_nil _).symm⟩
  · rintro ⟨last, rfl | rfl, h⟩
    · exact .inr (h.trans (List.append_nil _))
    · exact .inl (h.trans (dmFields_eq_dropLast_append c).symm)

namespace Machine

/-- The check of a record is its constraints, one by one. -/
theorem wf_iff_cfgConstraints (c : Cfg) : c.wf = true ↔ CfgConstraints c := by
  have hcounter : ∀ d : Desc, (match d with
      | .u16 (.counter _) _ _ => false
      | _ => true) = !d.isExtraCounter := by
    intro d
    cases d with
    | u16 name => cases name <;> rfl
    | _ => rfl
  simp only [Cfg.wf, Bool.and_eq_true, echoesNonEmpty_iff, chunkMaxPositive, decide_eq_true_eq,
    compositesOk_iff, layoutNamesOk_iff, dmOffsetsOk_iff, usFieldsOk_iff, pdFieldsOk_iff, and_assoc]
  constructor
  · rintro ⟨hon, hoff, hmax, hcomposites, hnd, hnu, hnp, hdm, hoffsets, hus, hpd⟩
    exact ⟨⟨hon, hoff⟩, hmax, hcomposites, ⟨hnd, hnu, hnp⟩, (dmFieldsOk_iff hcounter).mp hdm, hoffsets,
      hus, hpd⟩
  · rintro ⟨⟨hon, hoff⟩, hmax, hcomposites, ⟨hnd, hnu, hnp⟩, hdm, hoffsets, hus, hpd⟩
    exact ⟨hon, hoff, hmax, hcomposites, hnd, hnu, hnp, (dmFieldsOk_iff hcounter).mpr hdm, hoffsets, hus, hpd⟩

/-- Settles O10: power-on branches on the check, and the check is the constraints. -/
theorem powerOnRefusesIllFormedCfg : Obligations.PowerOnRefusesIllFormedCfg := by
  intro c
  refine ⟨wf_iff_cfgConstraints c, fun hwf => ?_, fun hill => ?_⟩
  · rw [powerOn, if_pos hwf]
  · rw [powerOn, hill]
    rfl

/-- Settles O53: no operation writes `CFG`. -/
theorem stepKeepsTheConfigurationWellFormed : Obligations.StepKeepsTheConfigurationWellFormed := by
  intro s t hwf hstep
  have hkept : t.cfg.wf = true :=
    step_preserves (P := fun s => s.cfg.wf = true) (fun _ _ h => h)
      (fun i s t h he => (constantsAndPastOutputsNeverChange i s t he).1 ▸ h) hwf hstep
  exact ⟨hkept, (wf_iff_cfgConstraints t.cfg).mp hkept⟩

end Machine

end Sys2Proof
end

section
/-! What the `PARSE` forms deliver, and the statements on records and their errors (spec
43_response_parser_records.md; 60_exceptions.md R272). -/

namespace Sys2Proof.Machine

variable {s : State} {raw p : Bytes} {f : RecordForm} {d : Desc} {k : ErrKind} {rec : Record} {v : Value}
  {c : Cfg}

/-! ### Frames with a right checksum -/

/-- On a right checksum the form reads the payload. -/
theorem exec_recordForm_append_crc8 (hf : f ∈ recordForms s.cfg) (hp : p ≠ []) :
    exec (f.op (p ++ [crc8 p])) s = .next (s.deliver (.parse (f.readPayload p))) := by
  rw [exec_recordForm hf, validateFrame_append_crc8 hp, Res.bind_ok]

theorem RecordForm.readPayload_of_all {vs : List Value} (hlen : f.minLen ≤ p.length)
    (h : f.layout.map (readDesc p) = vs.map Res.ok) :
    f.readPayload p = .ok ⟨f.type, (f.layout.map Desc.name).zip vs⟩ := by
  rw [RecordForm.readPayload_of_le hlen, extract, readFields_of_all h, Res.bind_ok]

/-- A form on a frame whose payload every descriptor of its layout reads. -/
theorem exec_recordForm_of_all {vs : List Value} (hf : f ∈ recordForms s.cfg) (hp : p ≠ [])
    (hlen : f.minLen ≤ p.length) (h : f.layout.map (readDesc p) = vs.map Res.ok) :
    exec (f.op (p ++ [crc8 p])) s =
      .next (s.deliver (.parse (.ok ⟨f.type, (f.layout.map Desc.name).zip vs⟩))) := by
  rw [exec_recordForm_append_crc8 hf hp, RecordForm.readPayload_of_all hlen h]

theorem mem_recordForms_dm (c : Cfg) :
    ⟨.parseDataMeasurements, .dataMeasurements, c.layoutDm, 0⟩ ∈ recordForms c := by
  simp [recordForms]

theorem mem_recordForms_us (c : Cfg) :
    ⟨.parseUsageSummary, .usageSummary, c.layoutUs, 0⟩ ∈ recordForms c := by
  simp [recordForms]

theorem mem_recordForms_pd (c : Cfg) :
    ⟨.parseProductionData, .productionData, c.layoutPd, 32⟩ ∈ recordForms c := by
  simp [recordForms]

/-- Settles O24: one argument for the three forms (`exec_recordForm_of_all`). -/
theorem parseDeliversTheRecord : Obligations.ParseDeliversTheRecord := by
  intro s p vs hp
  exact ⟨exec_recordForm_of_all (mem_recordForms_dm s.cfg) hp (Nat.zero_le _),
    exec_recordForm_of_all (mem_recordForms_us s.cfg) hp (Nat.zero_le _),
    exec_recordForm_of_all (mem_recordForms_pd s.cfg) hp⟩

/-- Settles O26: the length test of the form comes before its extraction. -/
theorem productionDataNeeds32PayloadBytes : Obligations.ProductionDataNeeds32PayloadBytes := by
  intro s p hp hlen
  have hread := exec_recordForm_append_crc8 (mem_recordForms_pd s.cfg) hp
  rwa [RecordForm.readPayload, if_pos hlen] at hread

theorem parseNoRecord_append_crc8 (hp : p ≠ []) :
    parseNoRecord (p ++ [crc8 p]) = .err .invalidCommandType := by
  rw [parseNoRecord, validateFrame_append_crc8 hp, Res.bind_ok, raise_eq_err]

/-- Settles O27: the five forms are one (`exec_noRecordForm`). -/
theorem parseWithoutARecordTypeDeliversAnError : Obligations.ParseWithoutARecordTypeDeliversAnError := by
  intro s p hp
  have hform : ∀ i ∈ noRecordForms (p ++ [crc8 p]),
      exec i s = .next (s.deliver (.parse (.err .invalidCommandType))) := fun i hi => by
    rw [exec_noRecordForm hi, parseNoRecord_append_crc8 hp]
  simp only [noRecordForms, List.forall_mem_cons] at hform
  obtain ⟨hon, hoff, h5, h6, h7, _⟩ := hform
  exact ⟨hon, hoff, h5, h6, h7⟩

/-! ### The length byte (D29) -/

/-- A read from offset 1 on does not see byte 0. -/
theorem memRead_cons {off : Nat} (hoff : 1 ≤ off) (x y : Byte) (q : Bytes) (n : Nat) :
    memRead (x :: q) off n = memRead (y :: q) off n := by
  obtain ⟨off, rfl⟩ := Nat.exists_eq_add_of_le' hoff
  rfl

theorem readDesc_cons (hoff : ∀ o ∈ d.offsets, 1 ≤ o) (x y : Byte) (q : Bytes) :
    readDesc (x :: q) d = readDesc (y :: q) d := by
  have hword : ∀ o ∈ d.offsets, readWord (x :: q) o = readWord (y :: q) o := fun o ho => by
    rw [readWord, readWord, memRead_cons (hoff o ho) x y]
  cases d with
  | u16 | s16 | flags16 | date | time =>
    rw [readDesc, readDesc, hword _ (List.mem_singleton_self _)]
  | u32 _ m l | s32 _ m l =>
    rw [readDesc, readDesc, readWord32, readWord32, hword m (by simp [Desc.offsets]),
      hword l (by simp [Desc.offsets])]
  | ascii _ off =>
    rw [readDesc, readDesc, readAscii, readAscii, memRead_cons (hoff off (List.mem_singleton_self _)) x y]

theorem readFields_cons {l : List Desc} (hoff : ∀ d ∈ l, ∀ o ∈ d.offsets, 1 ≤ o) (x y : Byte) (q : Bytes) :
    readFields (x :: q) l = readFields (y :: q) l := by
  induction l with
  | nil => rfl
  | cons d l ih =>
    obtain ⟨hd, hl⟩ := List.forall_mem_cons.mp hoff
    rw [readFields, readFields, readDesc_cons hd x y, ih hl]

/-- On a right checksum `PARSE.DATA_MEASUREMENTS` extracts its layout from the payload. -/
theorem parseDm_append_crc8 (hp : p ≠ []) (s : State) :
    exec (.parseDataMeasurements (p ++ [crc8 p])) s =
      .next (s.deliver (.parse (extract .dataMeasurements s.cfg.layoutDm p))) := by
  have h := exec_recordForm_append_crc8 (mem_recordForms_dm s.cfg) hp
  rwa [RecordForm.readPayload_of_no_minLen rfl] at h

/-- Settles O28: every offset of a well-formed measurement layout is 1 at least. -/
theorem lengthByteDoesNotInfluenceTheRecord : Obligations.LengthByteDoesNotInfluenceTheRecord := by
  intro s x y q r hwf h
  have hoff := ((wf_iff_cfgConstraints s.cfg).mp hwf).offsets
  have hsame : extract .dataMeasurements s.cfg.layoutDm (y :: q) =
      extract .dataMeasurements s.cfg.layoutDm (x :: q) := by
    rw [extract, extract, readFields_cons hoff y x]
  rw [parseDm_append_crc8 (List.cons_ne_nil _ _)] at h ⊢
  rw [hsame]
  exact h

/-! ### The kinds of errors (R272) -/

theorem extract_err {t : RecordType} {l : List Desc} (h : extract t l p = .err k) :
    ∃ d ∈ l, readDesc p d = .err k := by
  rcases Res.bind_eq_err.mp h with h | ⟨_, _, h⟩
  · exact readFields_err h
  · cases h

/-- A form with a record type fails in frame validation, in its length test, or at a descriptor. -/
theorem exec_recordForm_err (hf : f ∈ recordForms s.cfg)
    (h : exec (f.op raw) s = .next (s.deliver (.parse (.err k)))) :
    k = .responseTooShort ∨ k = .checksumMismatch ∨ ∃ p, ∃ d ∈ f.layout, readDesc p d = .err k := by
  rw [exec_recordForm hf] at h
  rcases Res.bind_eq_err.mp (Output.parse.inj (next_deliver_injective h)) with h | ⟨p, _, h⟩
  · exact (validateFrame_err_kind h).imp_right .inl
  · rw [RecordForm.readPayload] at h
    split at h
    · cases h
      exact .inl rfl
    · exact .inr (.inr ⟨p, extract_err h⟩)

theorem exec_noRecordForm_err {i : Instr} (hi : i ∈ noRecordForms raw)
    (h : exec i s = .next (s.deliver (.parse (.err k)))) :
    k = .responseTooShort ∨ k = .checksumMismatch ∨ k = .invalidCommandType := by
  rw [exec_noRecordForm hi] at h
  rcases Res.bind_eq_err.mp (Output.parse.inj (next_deliver_injective h)) with h | ⟨_, _, h⟩
  · exact (validateFrame_err_kind h).imp_right .inl
  · cases h
    exact .inr (.inr rfl)

theorem dmFieldsOk_of_wf (hwf : c.wf = true) : dmFieldsOk c = true := by
  simp only [Cfg.wf, Bool.and_eq_true] at hwf
  obtain ⟨⟨⟨⟨_, hdm⟩, _⟩, _⟩, _⟩ := hwf
  exact hdm

/-- A descriptor of a well-formed measurement layout is a further counter or stands in R201's table. -/
theorem spec_mem_dmFields (hwf : c.wf = true) (hd : d ∈ c.layoutDm) :
    d.isExtraCounter = true ∨ d.spec ∈ dmFields c := by
  obtain ⟨last, hlast, hspecs⟩ := (dmFieldsOk_iff fun _ => rfl).mp (dmFieldsOk_of_wf hwf)
  cases hextra : d.isExtraCounter with
  | true => exact .inl rfl
  | false =>
    have hmem : d.spec ∈ (dmFields c).dropLast ++ last :=
      hspecs ▸ List.mem_map_of_mem (List.mem_filter.mpr ⟨hd, by simp [hextra]⟩)
    rw [dmFields_eq_dropLast_append]
    rcases hlast with rfl | rfl
    · exact .inr (List.mem_append_left _ (by simpa using hmem))
    · exact .inr hmem

/-- A field of R201's table, the second alarm bank apart, has a descriptor in every well-formed layout. -/
theorem exists_desc_of_mem_dmFields {fs : FieldSpec} (hwf : c.wf = true) (hf : fs ∈ (dmFields c).dropLast) :
    ∃ d ∈ c.layoutDm, d.spec = fs := by
  obtain ⟨last, _, hspecs⟩ := (dmFieldsOk_iff fun _ => rfl).mp (dmFieldsOk_of_wf hwf)
  obtain ⟨d, hd, hspec⟩ := List.mem_map.mp (hspecs ▸ List.mem_append_left last hf)
  exact ⟨d, (List.mem_filter.mp hd).1, hspec⟩

theorem kind_ne_ascii_of_mem_layoutDm (hwf : c.wf = true) (hd : d ∈ c.layoutDm) : d.kind ≠ .ascii := by
  have htable : (dmFields c).all (fun fs => fs.2.1 != .ascii) = true := rfl
  rcases spec_mem_dmFields hwf hd with hcounter | hspec
  · unfold Desc.isExtraCounter at hcounter
    split at hcounter
    · simp [Desc.kind]
    · cases hcounter
  · exact bne_iff_ne.mp (List.all_eq_true.mp htable d.spec hspec)

theorem kind_of_mem_layoutUs (hwf : c.wf = true) (hd : d ∈ c.layoutUs) : d.kind = .u16 ∨ d.kind = .date := by
  obtain ⟨counters, off, _, hlayout, hcounters⟩ := ((wf_iff_cfgConstraints c).mp hwf).usage
  rcases List.mem_append.mp (hlayout ▸ hd) with hd | hd
  · obtain ⟨k, o, rfl⟩ := hcounters d hd
    exact .inl rfl
  · cases List.mem_singleton.mp hd
    exact .inr rfl

theorem kind_of_mem_layoutPd (hwf : c.wf = true) (hd : d ∈ c.layoutPd) :
    d.kind = .date ∨ d.kind = .ascii := by
  obtain ⟨o, a, n, b, m, hlayout⟩ := ((wf_iff_cfgConstraints c).mp hwf).production
  simp only [hlayout, List.mem_cons, List.not_mem_nil, or_false] at hd
  rcases hd with rfl | rfl | rfl
  · exact .inl rfl
  · exact .inr rfl
  · exact .inr rfl

/-- Settles O29: each kind of error comes from frame validation, from the form's own test, or from the kind of a
descriptor that the form's layout may hold. -/
theorem parseErrorKindsByForm : Obligations.ParseErrorKindsByForm := by
  intro s raw k hwf
  refine ⟨fun h => ?measurements, fun h => ?usage, fun h => ?production, fun i hi h => ?noRecord⟩
  case measurements =>
    rcases exec_recordForm_err (mem_recordForms_dm s.cfg) h with rfl | rfl | ⟨p, d, hd, hread⟩
    · simp
    · simp
    · have hkind := kind_ne_ascii_of_mem_layoutDm hwf hd
      rcases readDesc_err_kind hread with rfl | ⟨_, rfl⟩ | ⟨_, rfl⟩ | ⟨hascii, _⟩
      · simp
      · simp
      · simp
      · exact absurd hascii hkind
  case usage =>
    rcases exec_recordForm_err (mem_recordForms_us s.cfg) h with rfl | rfl | ⟨p, d, hd, hread⟩
    · simp
    · simp
    · have hkind := kind_of_mem_layoutUs hwf hd
      rcases readDesc_err_kind hread with rfl | ⟨_, rfl⟩ | ⟨htime, _⟩ | ⟨hascii, _⟩
      · simp
      · simp
      · simp [htime] at hkind
      · simp [hascii] at hkind
  case production =>
    rcases exec_recordForm_err (mem_recordForms_pd s.cfg) h with rfl | rfl | ⟨p, d, hd, hread⟩
    · simp
    · simp
    · have hkind := kind_of_mem_layoutPd hwf hd
      rcases readDesc_err_kind hread with rfl | ⟨_, rfl⟩ | ⟨htime, _⟩ | ⟨_, rfl⟩
      · simp
      · simp
      · simp [htime] at hkind
      · simp
  case noRecord =>
    rcases exec_noRecordForm_err hi h with rfl | rfl | rfl <;> simp

/-! ### The fields of a measurement record (R201, R206) -/

theorem ofKind_u16 (w : Word16) (sc : Scale) :
    (Value.num (unsigned w) sc).ofKind .u16 (some sc) = true := by
  have hlt := w.isLt
  have hvalue : unsigned w = w.toNat := rfl
  simp only [Value.ofKind, Bool.and_eq_true, decide_eq_true_eq, beq_self_eq_true, and_true]
  omega

theorem ofKind_s16 (w : Word16) (sc : Scale) : (Value.num (sext w) sc).ofKind .s16 (some sc) = true := by
  have hlt := w.isLt
  simp only [Value.ofKind, sext_word16, Bool.and_eq_true, decide_eq_true_eq, beq_self_eq_true, and_true]
  omega

theorem ofKind_u32 (v : Word32) (sc : Scale) :
    (Value.num (unsigned v) sc).ofKind .u32 (some sc) = true := by
  have hlt := v.isLt
  have hvalue : unsigned v = v.toNat := rfl
  simp only [Value.ofKind, Bool.and_eq_true, decide_eq_true_eq, beq_self_eq_true, and_true]
  omega

theorem ofKind_s32 (v : Word32) (sc : Scale) : (Value.num (sext v) sc).ofKind .s32 (some sc) = true := by
  have hlt := v.isLt
  simp only [Value.ofKind, sext_word32, Bool.and_eq_true, decide_eq_true_eq, beq_self_eq_true, and_true]
  omega

theorem ofKind_date {w : Word16} {d : Date} (h : dateOfWord w = .ok d) :
    (Value.date d).ofKind .date none = true := by
  have hyear : slice w 15 9 ≤ 127 := by
    rw [slice_eq]
    omega
  rcases dateOfWord_cases w with hw | ⟨hw, hbounds⟩
  · cases hw.symm.trans h
  · cases hw.symm.trans h
    simp only [Value.ofKind, Bool.and_eq_true, decide_eq_true_eq]
    omega

theorem ofKind_time {w : Word16} {t : TimeOfDay} (h : timeOfWord w = .ok t) :
    (Value.time t).ofKind .time none = true := by
  rcases timeOfWord_cases w with hw | ⟨hw, hbounds⟩
  · cases hw.symm.trans h
  · cases hw.symm.trans h
    simp only [Value.ofKind, Bool.and_eq_true, decide_eq_true_eq, beq_iff_eq]
    omega

theorem readAscii_ok {off n : Nat} {b : Bytes} (h : readAscii p off n = .ok b) :
    b.all isPrintable = true := by
  obtain ⟨b', _, h⟩ := Res.bind_eq_ok.mp h
  split at h
  · next hall =>
    cases h
    exact hall
  · cases h

/-- What a descriptor reads is of its kind, in range and with its scale. -/
theorem readDesc_ofKind (h : readDesc p d = .ok v) : v.ofKind d.kind d.scale = true := by
  cases d <;> obtain ⟨w, hw, h⟩ := Res.bind_eq_ok.mp h
  case u16 =>
    cases h
    exact ofKind_u16 w _
  case s16 =>
    cases h
    exact ofKind_s16 w _
  case u32 =>
    cases h
    exact ofKind_u32 w _
  case s32 =>
    cases h
    exact ofKind_s32 w _
  case flags16 =>
    cases h
    exact beq_iff_eq.mpr (unpackFlags_length w)
  case date =>
    obtain ⟨d, hd, h⟩ := Res.bind_eq_ok.mp h
    cases h
    exact ofKind_date hd
  case time =>
    obtain ⟨t, ht, h⟩ := Res.bind_eq_ok.mp h
    cases h
    exact ofKind_time ht
  case ascii =>
    cases h
    exact readAscii_ok hw

/-- Where no name is repeated, each field is found under its name. -/
theorem Record.lookup_eq_of_mem {n : FieldName} (hnames : (rec.fields.map Prod.fst).Nodup)
    (hmem : (n, v) ∈ rec.fields) : rec.lookup n = some v := by
  cases hfind : rec.fields.find? fun f => f.1 == n with
  | none => exact absurd (beq_self_eq_true n) (List.find?_eq_none.mp hfind _ hmem)
  | some f =>
    have hname : f.1 = n := by simpa using List.find?_some hfind
    have hfield : f = (n, v) :=
      List.inj_on_of_nodup_map hnames (List.mem_of_find?_eq_some hfind) hmem hname
    rw [Record.lookup, hfind, hfield]
    rfl

/-- A record that is extracted holds what each descriptor reads. -/
theorem lookup_of_extract {t : RecordType} {l : List Desc} (hnames : (l.map Desc.name).Nodup)
    (h : extract t l p = .ok rec) (hd : d ∈ l) :
    ∃ v, rec.lookup d.name = some v ∧ v.ofKind d.kind d.scale = true := by
  obtain ⟨fs, hfs, h⟩ := Res.bind_eq_ok.mp h
  cases h
  obtain ⟨hfields, hreads⟩ := readFields_ok hfs
  obtain ⟨v, hread, hmem⟩ := hreads d hd
  exact ⟨v, Record.lookup_eq_of_mem (hfields ▸ hnames) hmem, readDesc_ofKind hread⟩

theorem flags_of_ofKind (h : v.ofKind .flags16 none = true) : ∃ fs, v = .flags fs ∧ fs.length = 16 := by
  cases v with
  | flags fs => exact ⟨fs, rfl, beq_iff_eq.mp h⟩
  | _ => cases h

theorem mosfetOn_of_lookup {fs : List Bool} (h : rec.lookup .status = some (.flags fs)) :
    mosfetOn c rec = fs[c.mosfetOnBit.val]? := by
  rw [mosfetOn, Record.flag, bankField, h]

theorem status_mem_dmFields (c : Cfg) : (.status, .flags16, none) ∈ (dmFields c).dropLast :=
  List.mem_of_getElem? (rfl : (dmFields c).dropLast[28]? = some (.status, .flags16, none))

/-- Settles O30: each field of the table has a descriptor, which was read; the status field is a word of 16
flags. -/
theorem measurementRecordHoldsItsFields : Obligations.MeasurementRecordHoldsItsFields := by
  intro s raw rec hwf h
  rw [exec_recordForm (mem_recordForms_dm s.cfg)] at h
  obtain ⟨p, _, hread⟩ := Res.bind_eq_ok.mp (Output.parse.inj (next_deliver_injective h))
  obtain ⟨_, hrec⟩ := RecordForm.readPayload_ok hread
  obtain ⟨hnames, _, _⟩ := ((wf_iff_cfgConstraints s.cfg).mp hwf).names
  have hfields : ∀ f ∈ (dmFields s.cfg).dropLast,
      ∃ v, rec.lookup f.1 = some v ∧ v.ofKind f.2.1 f.2.2 = true := by
    intro f hf
    obtain ⟨d, hd, rfl⟩ := exists_desc_of_mem_dmFields hwf hf
    exact lookup_of_extract hnames hrec hd
  refine ⟨(extract_ok hrec).1, hfields, ?mosfetOn⟩
  case mosfetOn =>
    obtain ⟨v, hlookup, hkind⟩ := hfields _ (status_mem_dmFields s.cfg)
    obtain ⟨fs, rfl, hlen⟩ := flags_of_ofKind hkind
    have hbit : s.cfg.mosfetOnBit.val < fs.length := by
      rw [hlen]
      exact s.cfg.mosfetOnBit.isLt
    exact ⟨fs, fs[s.cfg.mosfetOnBit.val], hlookup, List.getElem?_eq_getElem hbit,
      (mosfetOn_of_lookup hlookup).trans (List.getElem?_eq_getElem hbit)⟩

end Sys2Proof.Machine
end

section
/-! `ARM`, `NTF`, `TMO` and `RESET` case by case, and the statements on requests (spec 44_chunk_reassembler.md;
70_reset_and_hazards.md R310). -/

namespace Sys2Proof.Machine

variable {s t : State} {c : Bytes} {tm : Option Nat}

theorem State.armed_eq_false_iff (s : State) :
    s.armed = false ↔ s.raState = .idle ∨ s.raState = .complete ∨ s.raState = .timedOut := by
  unfold State.armed
  cases s.raState <;> decide

/-! ### What each operation does, in each phase -/

/-- Settles O38: the three states are the unarmed ones. -/
theorem armStartsAFreshRequest : Obligations.ArmStartsAFreshRequest := by
  intro s hs
  exact execArm_of_unarmed ((State.armed_eq_false_iff s).mpr hs)

/-- `ARM` leaves the state in which a stream of notifications begins (R231). -/
theorem exec_arm_of_unarmed (h : s.armed = false) : ∃ t, exec .arm s = .next t ∧
    t.raState = .awaitingFirstChunk ∧ t.cfg = s.cfg ∧ t.out = s.out ++ [.event (.timerStart 10)] :=
  ⟨_, execArm_of_unarmed h, rfl, rfl, rfl⟩

theorem execTmo_of_armed (h : s.armed = true) :
    execTmo s = .next { s with
      raState := .timedOut, timerRunning := false, subscribed := false,
      out := s.out ++ [.event (.timeout .responseTimeout), .event .unsub] } := by
  rw [execTmo, if_pos h]
  simp [State.emit, State.setRaState, State.stopTimer]

/-- A time-out leaves the buffer of an armed request as it was, and the reassembler unarmed (R245). -/
theorem exec_tmo_of_armed (h : s.armed = true) : ∃ t, exec .tmo s = .next t ∧ t.armed = false ∧
    t.raState = .timedOut ∧ t.raChunks = s.raChunks ∧ t.subscribed = false ∧
    t.out = s.out ++ [.event (.timeout .responseTimeout), .event .unsub] :=
  ⟨_, execTmo_of_armed h, rfl, rfl, rfl, rfl, rfl⟩

theorem execTmo_of_unarmed (h : s.armed = false) : execTmo s = .next s.stopTimer := by
  simp [execTmo, h]

/-- Settles O41: the first two states are the armed ones, the other three are not. -/
theorem timeoutEndsAnArmedRequestOnly : Obligations.TimeoutEndsAnArmedRequestOnly := by
  intro s
  exact ⟨fun hs => execTmo_of_armed ((State.armed_iff s).mpr hs),
    fun hs => execTmo_of_unarmed ((State.armed_eq_false_iff s).mpr hs)⟩

/-- Settles O42: `RESET` tests nothing. -/
theorem resetIsSilentAndTotal : Obligations.ResetIsSilentAndTotal := by
  intro s
  show execReset s = _
  rfl

/-- The state that the completion test answers at the declared length. -/
theorem completeIfFull_eq_of_le (h : s.raDeclared ≤ (s.raCount : Int)) :
    s.completeIfFull = { s with
      raState := .complete, subscribed := false,
      out := s.out ++ [.event (.frame s.raChunks.flatten), .event .unsub] } := by
  rw [completeIfFull_of_le h]
  simp [State.emit, State.setRaState]

theorem completeIfFull_raState (s : State) :
    s.completeIfFull.raState = s.raState ∨ s.completeIfFull.raState = .complete := by
  rcases completeIfFull_cases s with ⟨_, e⟩ | ⟨_, e⟩
  · exact .inl (congrArg State.raState e)
  · exact .inr (congrArg State.raState e)

/-- A first data chunk that is stored and tested (R237, R239). -/
theorem execNtf_first (hs : s.raState = .awaitingFirstChunk) (hc : isDataChunk s.cfg c = true) :
    execNtf c tm s = .next (s.storeFirstChunk c tm).completeIfFull := by
  rw [execNtf_taken ((State.armed_iff s).mpr (.inl hs)) hc, acceptChunk_first hs]

/-- A later data chunk is appended and tested (R238, R239). -/
theorem execNtf_later (hs : s.raState = .accumulating) (hc : isDataChunk s.cfg c = true) :
    execNtf c tm s = .next (s.appendChunk c tm).completeIfFull := by
  rw [execNtf_taken ((State.armed_iff s).mpr (.inr hs)) hc, acceptChunk_later hs]

/-- Settles O40: an ignored notification, and the two ways to append, each with the two outcomes of the completion
test. -/
theorem notificationFollowsItsRules : Obligations.NotificationFollowsItsRules := by
  intro s c tm
  refine ⟨?unarmed, ?ignored, fun hne hon hoff => ?data⟩
  case unarmed =>
    intro hawaiting haccumulating
    have harmed : ¬ s.armed = true := fun ha =>
      ((State.armed_iff s).mp ha).elim hawaiting haccumulating
    exact execNtf_ignored (.inl (Bool.eq_false_iff.mpr harmed))
  case ignored =>
    intro hc
    refine execNtf_ignored (.inr ?_)
    rcases hc with rfl | rfl | rfl
    · exact isDataChunk_nil s.cfg
    · exact isDataChunk_echoOn s.cfg
    · exact isDataChunk_echoOff s.cfg
  case data =>
    have hc : isDataChunk s.cfg c = true := (isDataChunk_iff _ _).mpr ⟨hne, hon, hoff⟩
    have hfirst : (s.storeFirstChunk c tm).raCount = c.length := raCount_storeFirstChunk s c tm
    have hlater : (s.appendChunk c tm).raCount = s.raCount + c.length := raCount_appendChunk s c tm
    refine ⟨fun hs hlt => ?firstShort, fun hs hle => ?firstFull, fun hs hlt => ?laterShort,
      fun hs hle => ?laterFull⟩
    case firstShort =>
      refine (execNtf_first hs hc).trans (congrArg _ (completeIfFull_of_lt ?_))
      rw [hfirst]
      exact Int.ofNat_lt.mpr hlt
    case firstFull =>
      refine (execNtf_first hs hc).trans (congrArg _ ((completeIfFull_eq_of_le ?_).trans ?_))
      · rw [hfirst]
        exact Int.ofNat_le.mpr hle
      · simp [State.storeFirstChunk]
    case laterShort =>
      refine (execNtf_later hs hc).trans (congrArg _ (completeIfFull_of_lt ?_))
      rwa [hlater]
    case laterFull =>
      refine (execNtf_later hs hc).trans (congrArg _ (completeIfFull_eq_of_le ?_))
      rwa [hlater]

/-! ### Transitions and races -/

/-- Settles O43: of everything that an operation can do (`exec_cases`), these are what writes `ra_state`. -/
theorem onlyTheTabledTransitions : Obligations.OnlyTheTabledTransitions := by
  intro i s t he hchange
  rcases exec_cases he with ⟨_, o, _, rfl⟩ | ⟨rfl, he⟩ | ⟨c, tm, rfl, he⟩ | ⟨rfl, he⟩ | ⟨rfl, rfl⟩
  · exact absurd rfl hchange
  · obtain ⟨hunarmed, rfl⟩ := execArm_cases he
    exact .inl ⟨rfl, hunarmed, rfl⟩
  · rcases execNtf_cases he with rfl | ⟨hc, hstored⟩
    · exact absurd rfl hchange
    · refine .inr (.inl ⟨c, tm, rfl, hc, ?_⟩)
      rcases hstored with ⟨hs, rfl⟩ | ⟨hs, rfl⟩
      · rcases completeIfFull_raState (s.storeFirstChunk c tm) with e | e
        · exact .inl ⟨hs, e⟩
        · exact .inr (.inl ⟨hs, e⟩)
      · rcases completeIfFull_raState (s.appendChunk c tm) with e | e
        · exact absurd e hchange
        · exact .inr (.inr ⟨hs, e⟩)
  · rcases execTmo_cases he with ⟨harmed, rfl⟩ | ⟨_, rfl⟩
    · exact .inr (.inr (.inl ⟨rfl, harmed, rfl⟩))
    · exact absurd rfl hchange
  · exact .inr (.inr (.inr ⟨rfl, rfl⟩))

/-- Settles O44: whichever comes first leaves the reassembler unarmed, and the other is then ignored. -/
theorem eitherOrderOfChunkAndTimeout : Obligations.EitherOrderOfChunkAndTimeout := by
  intro s t c tm harmed hntf hcomplete
  constructor
  · have hunarmed : t.armed = false := (State.armed_eq_false_iff t).mpr (.inr (.inl hcomplete))
    have htmo : exec .tmo t = .next t.stopTimer := execTmo_of_unarmed hunarmed
    exact ⟨t.stopTimer, by rw [execAll_cons hntf, execAll_cons htmo, execAll], hcomplete, rfl, rfl⟩
  · obtain ⟨u, htmo, hunarmed, hstate, hchunks, _, hout⟩ := exec_tmo_of_armed harmed
    have hignored : exec (.ntf c tm) u = .next u := execNtf_ignored (.inl hunarmed)
    exact ⟨u, by rw [execAll_cons htmo, execAll_cons hignored, execAll], hstate, hchunks, hout⟩

/-! ### Streams of notifications -/

theorem Buffered.raChunks (hempty : s.raChunks = []) {cs : List Bytes} (h : Buffered s t cs) :
    t.raChunks = cs := by
  rcases h.phase with ⟨rfl, rfl⟩ | ⟨_, _, hchunks, _⟩
  · exact hempty
  · exact hchunks

/-- Settles O46: the chunks are buffered, the time-out ends the request, and what comes after it meets an unarmed
reassembler. -/
theorem reassemblyTimesOutAndStaysSo : Obligations.ReassemblyTimesOutAndStaysSo := by
  intro s ns es hs hempty hshort
  obtain ⟨t, hrun, hbuf⟩ := notifications_short hs hshort
  obtain ⟨u, htmo, hunarmed, hstate, hchunks, hsub, hout⟩ := exec_tmo_of_armed (hbuf.armed hs)
  have hlate : exec .tmo u = .next u.stopTimer := execTmo_of_unarmed hunarmed
  refine ⟨u.stopTimer, ?run, hstate, hchunks.trans (hbuf.raChunks hempty), hsub, hbuf.out ▸ hout⟩
  case run =>
    rw [List.append_assoc, execAll_append hrun, List.cons_append, execAll_cons htmo,
      execAll_append (notifications_unarmed es hunarmed), execAll_cons hlate, execAll]

/-- Settles O47: `ARM` leaves the state that a stream begins in, and the chunks before the last are shorter than
the frame, which is as long as it declares. -/
theorem chunkingDoesNotChangeTheFrame : Obligations.ChunkingDoesNotChangeTheFrame := by
  intro s f ns hunarmed hne hlen hdata hcut
  obtain ⟨u, harm, hs, hcfg, hout⟩ := exec_arm_of_unarmed hunarmed
  have hchunks : dataChunks u.cfg ns = ns.map Prod.fst :=
    List.filter_eq_self.mpr (List.forall_mem_map.mpr (hcfg ▸ hdata))
  rcases List.eq_nil_or_concat (ns.map Prod.fst) with hnil | ⟨pre, last, hsplit⟩
  · rw [hnil] at hcut
    exact absurd hcut.symm hne
  · rw [hsplit, List.concat_eq_append] at hcut hchunks
    have hmem : last ∈ dataChunks u.cfg ns := by simp [hchunks]
    have hlast : last ≠ [] := dataChunks_ne_nil last hmem
    have hdeclared : declaredLength (pre ++ [last]) = f.length := by
      rw [declaredLength, hcut, hlen]
    have hshort : pre.flatten.length < f.length := by
      rw [← hcut]
      simpa using List.length_pos_of_ne_nil hlast
    obtain ⟨t, hrun, hstate, _, _, hframe⟩ := reassemblyCompletesExactlyOnce u ns [] pre last hs hchunks
      (fun _ => hdeclared ▸ hshort) (by rw [hdeclared, hcut])
    rw [List.append_nil] at hrun
    refine ⟨t, (execAll_cons harm _).trans hrun, hstate, ?_⟩
    rw [hframe, hout, hcut, List.append_assoc]
    rfl

end Sys2Proof.Machine
end

section
/-! The four invariants that every step keeps (spec 10_state.md R29, R37; 44_chunk_reassembler.md R242;
60_exceptions.md R291). -/

namespace Sys2Proof.Machine

variable {s t : State} {i : Instr} {o : Output} {out : List Output}

/-! ### The registers of the reassembler (R37) -/

theorem ReassemblerInv.isDataChunk (h : ReassemblerInv s) : ∀ c ∈ s.raChunks, isDataChunk s.cfg c = true :=
  h.2

theorem ReassemblerInv.nothingAccumulated (h : ReassemblerInv s) (hs : s.raState = .awaitingFirstChunk) :
    nothingAccumulated s := by
  simpa only [ReassemblerInv, hs] using h.1

theorem ReassemblerInv.partlyAccumulated (h : ReassemblerInv s) (hs : s.raState = .accumulating) :
    partlyAccumulated s := by
  simpa only [ReassemblerInv, hs] using h.1

/-- The declared length is a byte, and a byte that declares it was accumulated. -/
theorem bounds_of_declaredIsFirstByte (h : declaredIsFirstByte s) :
    0 ≤ s.raDeclared ∧ s.raDeclared ≤ 255 ∧ s.raChunks ≠ [] ∧ 1 ≤ s.raCount := by
  obtain ⟨b, hb, hdeclared⟩ := Option.map_eq_some_iff.mp h
  obtain ⟨rest, hbytes⟩ := List.head?_eq_some_iff.mp hb
  refine ⟨by omega, by omega, ?_, by simp [State.raCount, hbytes]⟩
  intro hnil
  simp [hnil] at hbytes

/-- After an append only the last chunk can have brought the count to the declared length, and the completion
test tells whether it has (R239). -/
theorem reassemblerInv_completeIfFull (hs : s.raState = .accumulating) (hdeclared : declaredIsFirstByte s)
    (hshort : s.raChunks.length ≠ 1 → (s.raChunks.dropLast.flatten.length : Int) < s.raDeclared)
    (hdata : ∀ c ∈ s.raChunks, isDataChunk s.cfg c = true) : ReassemblerInv s.completeIfFull := by
  obtain ⟨hlow, hhigh, hne, hcount⟩ := bounds_of_declaredIsFirstByte hdeclared
  rcases completeIfFull_cases s with ⟨hlt, e⟩ | ⟨hle, e⟩
  · rw [e, ReassemblerInv, hs]
    exact ⟨⟨hlow, hhigh, hne, hdeclared, hcount, hlt⟩, hdata⟩
  · rw [e]
    exact ⟨⟨hdeclared, hle, hshort⟩, hdata⟩

theorem declaredIsFirstByte_storeFirstChunk {c : Bytes} (hc : c ≠ []) (tm : Option Nat) (s : State) :
    declaredIsFirstByte (s.storeFirstChunk c tm) := by
  obtain ⟨b, bs, rfl⟩ := List.exists_cons_of_ne_nil hc
  simp [declaredIsFirstByte]

theorem declaredIsFirstByte_appendChunk (h : declaredIsFirstByte s) (c : Bytes) (tm : Option Nat) :
    declaredIsFirstByte (s.appendChunk c tm) := by
  obtain ⟨b, hb, hdeclared⟩ := Option.map_eq_some_iff.mp h
  refine Option.map_eq_some_iff.mpr ⟨b, ?_, hdeclared⟩
  rw [State.appendChunk_raChunks, List.flatten_append, List.head?_append, hb, Option.some_or]

theorem execNtf_keeps_reassemblerInv {c : Bytes} {tm : Option Nat} (h : ReassemblerInv s)
    (he : execNtf c tm s = .next t) : ReassemblerInv t := by
  rcases execNtf_cases he with rfl | ⟨hc, ⟨_, rfl⟩ | ⟨hs, rfl⟩⟩
  · exact h
  · have hne := ((isDataChunk_iff _ _).mp hc).1
    refine reassemblerInv_completeIfFull rfl (declaredIsFirstByte_storeFirstChunk hne tm s) ?_ ?_
    · exact fun hmany => absurd rfl hmany
    · exact List.forall_mem_singleton.mpr hc
  · obtain ⟨_, _, _, hdeclared, _, hlt⟩ := h.partlyAccumulated hs
    refine reassemblerInv_completeIfFull hs (declaredIsFirstByte_appendChunk hdeclared c tm) ?_ ?_
    · intro _
      rwa [State.appendChunk_raChunks, List.dropLast_concat]
    · exact List.forall_mem_append.mpr ⟨h.isDataChunk, List.forall_mem_singleton.mpr hc⟩

theorem execTmo_keeps_reassemblerInv (h : ReassemblerInv s) (he : execTmo s = .next t) :
    ReassemblerInv t := by
  rcases execTmo_cases he with ⟨harmed, rfl⟩ | ⟨_, rfl⟩
  · refine ⟨?_, h.isDataChunk⟩
    rcases (State.armed_iff s).mp harmed with hs | hs
    · exact .inl (h.nothingAccumulated hs)
    · exact .inr (h.partlyAccumulated hs)
  · exact h

theorem exec_keeps_reassemblerInv (h : ReassemblerInv s) (he : exec i s = .next t) : ReassemblerInv t := by
  rcases exec_cases he with ⟨_, o, _, rfl⟩ | ⟨_, he⟩ | ⟨c, tm, _, he⟩ | ⟨_, he⟩ | ⟨_, rfl⟩
  · exact h
  · obtain ⟨_, rfl⟩ := execArm_cases he
    exact ⟨⟨rfl, rfl⟩, List.forall_mem_nil _⟩
  · exact execNtf_keeps_reassemblerInv h he
  · exact execTmo_keeps_reassemblerInv h he
  · exact ⟨⟨rfl, rfl⟩, List.forall_mem_nil _⟩

/-- Settles O48: every operation keeps the clauses of R37, which do not speak of the queue. -/
theorem stepKeepsTheReassemblerInvariant : Obligations.StepKeepsTheReassemblerInvariant := by
  intro s t
  exact step_preserves (fun _ _ h => h) (fun _ _ _ h he => exec_keeps_reassemblerInv h he)

/-! ### Exactly-once delivery (R242) -/

theorem SettledAtMostOnce.settledSinceArm_le (h : SettledAtMostOnce out) :
    (settledSinceArm out).length ≤ 1 := by
  have hsplit : out = (out.reverse.dropWhile fun o => !o.isTimerStart).reverse ++ (sinceArm out).reverse ++ [] := by
    rw [List.append_nil, ← List.reverse_append, sinceArm, List.takeWhile_append_dropWhile, List.reverse_reverse]
  have hmid : ∀ o ∈ (sinceArm out).reverse, o.isTimerStart = false := by
    intro o ho
    simpa using List.mem_takeWhile_imp (List.mem_reverse.mp ho)
  simpa [settledSinceArm] using h _ _ _ hsplit hmid

/-- One more output keeps the bound when it settles nothing, or nothing was settled since the last
`TIMER_START`. -/
theorem SettledAtMostOnce.append (h : SettledAtMostOnce out)
    (ho : o.settles = true → settledSinceArm out = []) : SettledAtMostOnce (out ++ [o]) := by
  have hlast : (settledSinceArm (out ++ [o])).length ≤ 1 := by
    rw [settledSinceArm_append]
    split
    · simp
    · split
      · next hsettles => simp [ho hsettles]
      · exact h.settledSinceArm_le
  intro pre mid post hsplit hmid
  rcases List.eq_nil_or_concat post with rfl | ⟨post, o', rfl⟩
  · rw [List.append_nil] at hsplit
    exact (settled_suffix_le hmid pre).trans (hsplit ▸ hlast)
  · rw [List.concat_eq_append, ← List.append_assoc] at hsplit
    exact h pre mid post (List.append_inj_left' hsplit rfl) hmid

/-- An event that settles a request, then `UNSUB`. -/
theorem SettledAtMostOnce.append_unsub (h : SettledAtMostOnce out) (hnone : settledSinceArm out = []) :
    SettledAtMostOnce (out ++ [o] ++ [.event .unsub]) :=
  (h.append fun _ => hnone).append fun hunsub => nomatch hunsub

theorem settledSinceArm_settling_unsub (hnone : settledSinceArm out = []) (hstart : o.isTimerStart = false)
    (hsettles : o.settles = true) : settledSinceArm (out ++ [o] ++ [.event .unsub]) = [o] := by
  have hunsub : settledSinceArm (out ++ [o] ++ [.event .unsub]) = settledSinceArm (out ++ [o]) :=
    settledSinceArm_append _ _
  rw [hunsub, settledSinceArm_append, hstart, hsettles, hnone]
  rfl

theorem deliveryInv_deliver (h : DeliveryInv s) (ho : ∀ e, o ≠ .event e) : DeliveryInv (s.deliver o) := by
  obtain ⟨honce, hphase⟩ := h
  obtain ⟨hstart, hsettles⟩ := Output.plain_of_not_event ho
  have hsame : settledSinceArm (s.deliver o).out = settledSinceArm s.out := by
    rw [State.deliver_out, settledSinceArm_append, hstart, hsettles]
    rfl
  refine ⟨honce.append fun hs => absurd (hsettles ▸ hs) Bool.false_ne_true, ?_⟩
  rwa [hsame]

/-- The completion test settles the request with the frame, or nothing (R239, R242). -/
theorem deliveryInv_completeIfFull (honce : SettledAtMostOnce s.out) (hs : s.raState = .accumulating)
    (hnone : settledSinceArm s.out = []) : DeliveryInv s.completeIfFull := by
  rcases completeIfFull_cases s with ⟨_, e⟩ | ⟨_, e⟩
  · rw [e]
    exact ⟨honce, fun _ => hnone, fun hc => (nomatch hs.symm.trans hc), fun hc => (nomatch hs.symm.trans hc)⟩
  · rw [e]
    exact ⟨honce.append_unsub hnone, fun ha => (nomatch ha),
      fun _ => settledSinceArm_settling_unsub hnone rfl rfl, fun hc => (nomatch hc)⟩

theorem execNtf_keeps_deliveryInv {c : Bytes} {tm : Option Nat} (h : DeliveryInv s)
    (he : execNtf c tm s = .next t) : DeliveryInv t := by
  rcases execNtf_cases he with rfl | ⟨_, ⟨hs, rfl⟩ | ⟨hs, rfl⟩⟩
  · exact h
  all_goals obtain ⟨honce, hnone, _⟩ := h
  · exact deliveryInv_completeIfFull honce rfl (hnone ((State.armed_iff s).mpr (.inl hs)))
  · exact deliveryInv_completeIfFull honce hs (hnone ((State.armed_iff s).mpr (.inr hs)))

theorem execTmo_keeps_deliveryInv (h : DeliveryInv s) (he : execTmo s = .next t) : DeliveryInv t := by
  rcases execTmo_cases he with ⟨harmed, rfl⟩ | ⟨_, rfl⟩
  · obtain ⟨honce, hnone, _⟩ := h
    exact ⟨honce.append_unsub (hnone harmed), fun ha => (nomatch ha), fun hc => (nomatch hc),
      fun _ => settledSinceArm_settling_unsub (hnone harmed) rfl rfl⟩
  · exact h

theorem exec_keeps_deliveryInv (h : DeliveryInv s) (he : exec i s = .next t) : DeliveryInv t := by
  rcases exec_cases he with ⟨_, o, ho, rfl⟩ | ⟨_, he⟩ | ⟨c, tm, _, he⟩ | ⟨_, he⟩ | ⟨_, rfl⟩
  · exact deliveryInv_deliver h ho
  · obtain ⟨honce, _⟩ := h
    obtain ⟨_, rfl⟩ := execArm_cases he
    exact ⟨honce.append fun hs => (nomatch hs), fun _ => settledSinceArm_append _ _, fun hc => (nomatch hc),
      fun hc => (nomatch hc)⟩
  · exact execNtf_keeps_deliveryInv h he
  · exact execTmo_keeps_deliveryInv h he
  · obtain ⟨honce, _⟩ := h
    exact ⟨honce, fun ha => (nomatch ha), fun hc => (nomatch hc), fun hc => (nomatch hc)⟩

/-- Settles O49: a settling event leaves an armed state, since whose `TIMER_START` nothing was settled, and the
state after it is not armed. -/
theorem stepKeepsExactlyOnceDelivery : Obligations.StepKeepsExactlyOnceDelivery := by
  intro s t
  exact step_preserves (fun _ _ h => h) (fun _ _ _ h he => exec_keeps_deliveryInv h he)

/-! ### The buffer's capacity (R29) and the live request (R291) -/

theorem chunk_length_le_of_allowed {r : Request} {c : Bytes} {tm : Option Nat} (h : allowed s r = true)
    (hd : decode r = .ntf c tm) : c.length ≤ s.cfg.chunkMax := by
  simpa [allowed, hd, Instr.wf] using h

/-- Below the declared length, which is a byte, a chunk within `CHUNK_MAX` still fits. -/
theorem execNtf_keeps_capacityInv {c : Bytes} {tm : Option Nat} (h : ReassemblerInv s) (hcap : CapacityInv s)
    (hc : c.length ≤ s.cfg.chunkMax) (he : execNtf c tm s = .next t) : CapacityInv t := by
  rcases execNtf_cases he with rfl | ⟨_, ⟨_, rfl⟩ | ⟨hs, rfl⟩⟩
  · exact hcap
  · have hcount := raCount_storeFirstChunk s c tm
    simp only [CapacityInv, State.raCount, completeIfFull_raChunks, completeIfFull_cfg,
      State.storeFirstChunk_cfg] at hcount ⊢
    omega
  · obtain ⟨_, hhigh, _, _, _, hlt⟩ := h.partlyAccumulated hs
    have hcount := raCount_appendChunk s c tm
    simp only [CapacityInv, State.raCount, completeIfFull_raChunks, completeIfFull_cfg,
      State.appendChunk_cfg] at hlt hcount ⊢
    omega

/-- Settles O50: only `NTF` adds to the buffer, and the contract bounds its chunk. -/
theorem stepKeepsTheCapacityBound : Obligations.StepKeepsTheCapacityBound := by
  intro s t hinv hcap hallowed hstep
  rcases step_cases hstep with ⟨_, rfl⟩ | ⟨r, rs, hq, he⟩
  · exact hcap
  · rcases exec_cases he with ⟨_, o, _, rfl⟩ | ⟨_, he⟩ | ⟨c, tm, hd, he⟩ | ⟨_, he⟩ | ⟨_, rfl⟩
    · exact hcap
    · obtain ⟨_, rfl⟩ := execArm_cases he
      exact Nat.zero_le _
    · have hc := chunk_length_le_of_allowed (hallowed r rs hq) hd
      exact execNtf_keeps_capacityInv (s := { s with requests := rs }) hinv hcap hc he
    · rcases execTmo_cases he with ⟨_, rfl⟩ | ⟨_, rfl⟩
      · exact hcap
      · exact hcap
    · exact Nat.zero_le _

/-- The completion test leaves the request alive or ends it. -/
theorem liveRequestInv_completeIfFull (h : s.subscribed = true ∧ s.timerRunning = true) :
    LiveRequestInv s.completeIfFull := by
  rcases completeIfFull_cases s with ⟨_, e⟩ | ⟨_, e⟩
  · rw [e]
    exact fun _ => h
  · rw [e]
    exact fun ha => nomatch ha

theorem exec_keeps_liveRequestInv (h : LiveRequestInv s) (he : exec i s = .next t) : LiveRequestInv t := by
  rcases exec_cases he with ⟨_, o, _, rfl⟩ | ⟨_, he⟩ | ⟨c, tm, _, he⟩ | ⟨_, he⟩ | ⟨_, rfl⟩
  · exact h
  · obtain ⟨_, rfl⟩ := execArm_cases he
    exact fun _ => ⟨rfl, rfl⟩
  · rcases execNtf_cases he with rfl | ⟨_, ⟨hs, rfl⟩ | ⟨hs, rfl⟩⟩
    · exact h
    · exact liveRequestInv_completeIfFull (h ((State.armed_iff s).mpr (.inl hs)))
    · exact liveRequestInv_completeIfFull (h ((State.armed_iff s).mpr (.inr hs)))
  · rcases execTmo_cases he with ⟨_, rfl⟩ | ⟨hunarmed, rfl⟩
    · exact fun ha => nomatch ha
    · exact fun ha => absurd (hunarmed ▸ ha) Bool.false_ne_true
  · exact fun ha => nomatch ha

/-- Settles O51: `ARM` makes both, and what stops the timer or cancels the subscription ends the request. -/
theorem stepKeepsTheRequestAlive : Obligations.StepKeepsTheRequestAlive := by
  intro s t
  exact step_preserves (fun _ _ h => h) (fun _ _ _ h he => exec_keeps_liveRequestInv h he)

/-- Settles O52: at reset nothing is accumulated, nothing was delivered and nothing is armed. -/
theorem invariantsHoldAfterPowerOn : Obligations.InvariantsHoldAfterPowerOn := by
  refine ⟨⟨⟨rfl, rfl⟩, List.forall_mem_nil _⟩, ⟨?once, ?_, ?_, ?_⟩, Nat.zero_le _, fun ha => nomatch ha⟩
  case once =>
    intro pre mid post hsplit _
    obtain ⟨hpremid, _⟩ := List.append_eq_nil_iff.mp hsplit.symm
    obtain ⟨_, rfl⟩ := List.append_eq_nil_iff.mp hpremid
    exact Nat.zero_le _
  · exact fun ha => nomatch ha
  · exact fun hc => nomatch hc
  · exact fun hc => nomatch hc

end Sys2Proof.Machine
end
